-- ==== Sys2Proof/Word.lean ====
section
/-! DEFINITION. The word types of CORE and the pair of a width and a number that the spec calls a value
(00_scope.md R10). Nothing here can be mended later, so nothing here computes. -/

namespace Sys2Proof

/-- An 8-bit value: an operand of the FEAL S-boxes (41_feal.md R100). -/
abbrev Byte := BitVec 8

/-- A 16-bit value: a FEAL subkey (41_feal.md R104). -/
abbrev Half := BitVec 16

/-- A 32-bit value: a bus word, a command word, a word of a cipher state (20_memory.md R50, 30_encoding.md R71). -/
abbrev Word32 := BitVec 32

/-- A 64-bit value: a FEAL block, a Salsa20 IV (00_scope.md R8). -/
abbrev Block64 := BitVec 64

/-- A byte address of the register space, `0x0000` to `0xFFFF` (20_memory.md R50). -/
abbrev Addr := BitVec 16

/-- A Salsa20 or ChaCha state: sixteen 32-bit words, word 0 first (42_salsa20.md, 43_chacha.md). -/
abbrev Block16 := Vector Word32 16

/-- A value of the spec: "a pair of a width W and a number v with 0 <= v < 2^W" (00_scope.md R10). -/
structure Value where
  /-- The declared width in bits. -/
  width : Nat
  /-- The number, of that width. -/
  bits : BitVec width
deriving DecidableEq, Repr

end Sys2Proof
end

