-- ==== Sys2Proof/Syntax.lean ====
section
/-! DEFINITION. The 23 commands of CORE as syntax: one constructor per row of spec/opcode_table.json
(30_encoding.md R78). Parameters are fields of the command word (R71 to R76); operands are implicit. -/

namespace Sys2Proof

/-- The ChaCha variant, the `V` bit of format NV (30_encoding.md R75). -/
inductive Variant where
  /-- `V = 0`: 64-bit nonce, 64-bit counter. -/
  | djb
  /-- `V = 1`: 96-bit nonce, 32-bit counter. -/
  | ietf
deriving DecidableEq, Repr

/-- A command. `rnd` is the number the field `RND` spells (30_encoding.md R71), which may be no legal round count
(R77); `i j k l` are the four word indices of format X (R76). -/
inductive Instr where
  /-- `FEAL.S0`, opcode `0x10`, format Z (41_feal.md R107). -/
  | fealS0
  /-- `FEAL.S1`, opcode `0x11`, format Z (41_feal.md R108). -/
  | fealS1
  /-- `FEAL.F`, opcode `0x12`, format Z (41_feal.md R109). -/
  | fealF
  /-- `FEAL.FK`, opcode `0x13`, format Z (41_feal.md R110). -/
  | fealFk
  /-- `FEAL.KS n=rnd`, opcode `0x14`, format N (41_feal.md R111). -/
  | fealKs (rnd : Nat)
  /-- `FEAL.ENC n=rnd [, ecb]`, opcode `0x15`, format NE (41_feal.md R112). -/
  | fealEnc (rnd : Nat) (ecb : Bool)
  /-- `FEAL.DEC n=rnd [, ecb]`, opcode `0x16`, format NE (41_feal.md R113). -/
  | fealDec (rnd : Nat) (ecb : Bool)
  /-- `SALSA.QR`, opcode `0x20`, format Z (42_salsa20.md R128). -/
  | salsaQr
  /-- `SALSA.RR`, opcode `0x21`, format Z (42_salsa20.md R129). -/
  | salsaRr
  /-- `SALSA.CR`, opcode `0x22`, format Z (42_salsa20.md R130). -/
  | salsaCr
  /-- `SALSA.DR`, opcode `0x23`, format Z (42_salsa20.md R131). -/
  | salsaDr
  /-- `SALSA.HASH r=rnd`, opcode `0x24`, format N (42_salsa20.md R132). -/
  | salsaHash (rnd : Nat)
  /-- `SALSA.EXP r=rnd`, opcode `0x25`, format N (42_salsa20.md R133). -/
  | salsaExp (rnd : Nat)
  /-- `SALSA.XCRYPT r=rnd`, opcode `0x26`, format N (42_salsa20.md R134). -/
  | salsaXcrypt (rnd : Nat)
  /-- `SALSA.ENC r=rnd`, opcode `0x27`, format N (42_salsa20.md R135). -/
  | salsaEnc (rnd : Nat)
  /-- `SALSA.DEC r=rnd`, opcode `0x28`, format N (42_salsa20.md R136). -/
  | salsaDec (rnd : Nat)
  /-- `CHACHA.QR`, opcode `0x30`, format Z (43_chacha.md R145). -/
  | chachaQr
  /-- `CHACHA.QRS i, j, k, l`, opcode `0x31`, format X (43_chacha.md R146). -/
  | chachaQrs (i j k l : Fin 16)
  /-- `CHACHA.HASH r=rnd`, opcode `0x32`, format N (43_chacha.md R147). -/
  | chachaHash (rnd : Nat)
  /-- `CHACHA.EXP r=rnd, djb|ietf`, opcode `0x33`, format NV (43_chacha.md R148). -/
  | chachaExp (rnd : Nat) (v : Variant)
  /-- `CHACHA.XCRYPT r=rnd, djb|ietf`, opcode `0x34`, format NV (43_chacha.md R149). -/
  | chachaXcrypt (rnd : Nat) (v : Variant)
  /-- `CHACHA.ENC r=rnd, djb|ietf`, opcode `0x35`, format NV (43_chacha.md R150). -/
  | chachaEnc (rnd : Nat) (v : Variant)
  /-- `CHACHA.DEC r=rnd, djb|ietf`, opcode `0x36`, format NV (43_chacha.md R151). -/
  | chachaDec (rnd : Nat) (v : Variant)
deriving DecidableEq, Repr

end Sys2Proof
end

