-- ==== Sys2Proof/WellFormed.lean ====
section
/-! DEFINITION. Which commands have an encoding: a round count must fit the 8-bit field `RND` (30_encoding.md R71).
Legality of the count is not part of it (R77): an illegal count is encodable and is the error `E_PARAM`. -/

namespace Sys2Proof

/-- The number in the field `RND`, where the command's format has one (30_encoding.md R73 to R75). -/
def Instr.rnd? : Instr → Option Nat
  | .fealS0 => none
  | .fealS1 => none
  | .fealF => none
  | .fealFk => none
  | .fealKs rnd => some rnd
  | .fealEnc rnd _ => some rnd
  | .fealDec rnd _ => some rnd
  | .salsaQr => none
  | .salsaRr => none
  | .salsaCr => none
  | .salsaDr => none
  | .salsaHash rnd => some rnd
  | .salsaExp rnd => some rnd
  | .salsaXcrypt rnd => some rnd
  | .salsaEnc rnd => some rnd
  | .salsaDec rnd => some rnd
  | .chachaQr => none
  | .chachaQrs _ _ _ _ => none
  | .chachaHash rnd => some rnd
  | .chachaExp rnd _ => some rnd
  | .chachaXcrypt rnd _ => some rnd
  | .chachaEnc rnd _ => some rnd
  | .chachaDec rnd _ => some rnd

/-- The command has an encoding: its round count, if it has one, is "an unsigned 8-bit number 0 to 255"
(30_encoding.md R71). -/
def Instr.wellFormed (i : Instr) : Bool :=
  match i.rnd? with
  | none => true
  | some n => n < 256

end Sys2Proof
end

