-- ==== Sys2Proof/Decode.lean ====
section
/-! DEFINITION. The decoder of 30_encoding.md R84, total on every 32-bit word and rejecting by name, and the encoder
written from the same formats (R71 to R76, R78). -/

namespace Sys2Proof

/-- Why a word is no command (30_encoding.md R84, 60_exceptions.md R171). -/
inductive DecodeReject where
  /-- `OPC` is not in the opcode map: `E_ILLEGAL(F_OPC)`. -/
  | opc
  /-- a bit the format marks MBZ is 1: `E_ILLEGAL(F_MBZ)`. -/
  | mbz
deriving DecidableEq, Repr

/-- The five formats (30_encoding.md R72 to R76). -/
inductive Format where
  | z | n | ne | nv | x
deriving DecidableEq, Repr

/-- `OPC = w[31:24]` (30_encoding.md R71). -/
def opcField (w : Word32) : BitVec 8 := w.extractLsb' 24 8

/-- `RND = w[23:16]`, "used as the number it spells" (30_encoding.md R71). -/
def rndField (w : Word32) : Nat := (w.extractLsb' 16 8).toNat

/-- `E = w[0]` (30_encoding.md R74). -/
def ecbField (w : Word32) : Bool := w.extractLsb' 0 1 == 1#1

/-- `V = w[1]`: 0 is DJB, 1 is IETF (30_encoding.md R75). -/
def variantField (w : Word32) : Variant := if w.extractLsb' 1 1 == 1#1 then .ietf else .djb

/-- The word index at bits `lo + 3 : lo` (30_encoding.md R76). -/
def indexField (w : Word32) (lo : Nat) : Fin 16 := (w.extractLsb' lo 4).toFin

/-- The bits the format marks MBZ are all 0 (30_encoding.md R84). -/
def mbzClear (f : Format) (w : Word32) : Bool :=
  match f with
  | .z => w.extractLsb' 0 24 == 0#24
  | .n => w.extractLsb' 0 16 == 0#16
  | .ne => w.extractLsb' 1 15 == 0#15
  | .nv => w.extractLsb' 2 14 == 0#14 && w.extractLsb' 0 1 == 0#1
  | .x => w.extractLsb' 16 8 == 0#8

/-- One row of the opcode map: the command, if the MBZ bits of its format are clear (30_encoding.md R84). -/
def decodeRow (f : Format) (w : Word32) (i : Instr) : Except DecodeReject Instr :=
  if mbzClear f w then .ok i else .error .mbz

/-- `decode(w)` of 30_encoding.md R84 with the opcode map of R78: the opcode first, then the MBZ bits of its format. -/
def decode (w : Word32) : Except DecodeReject Instr :=
  match (opcField w).toNat with
  | 0x10 => decodeRow .z w .fealS0
  | 0x11 => decodeRow .z w .fealS1
  | 0x12 => decodeRow .z w .fealF
  | 0x13 => decodeRow .z w .fealFk
  | 0x14 => decodeRow .n w (.fealKs (rndField w))
  | 0x15 => decodeRow .ne w (.fealEnc (rndField w) (ecbField w))
  | 0x16 => decodeRow .ne w (.fealDec (rndField w) (ecbField w))
  | 0x20 => decodeRow .z w .salsaQr
  | 0x21 => decodeRow .z w .salsaRr
  | 0x22 => decodeRow .z w .salsaCr
  | 0x23 => decodeRow .z w .salsaDr
  | 0x24 => decodeRow .n w (.salsaHash (rndField w))
  | 0x25 => decodeRow .n w (.salsaExp (rndField w))
  | 0x26 => decodeRow .n w (.salsaXcrypt (rndField w))
  | 0x27 => decodeRow .n w (.salsaEnc (rndField w))
  | 0x28 => decodeRow .n w (.salsaDec (rndField w))
  | 0x30 => decodeRow .z w .chachaQr
  | 0x31 => decodeRow .x w
      (.chachaQrs (indexField w 12) (indexField w 8) (indexField w 4) (indexField w 0))
  | 0x32 => decodeRow .n w (.chachaHash (rndField w))
  | 0x33 => decodeRow .nv w (.chachaExp (rndField w) (variantField w))
  | 0x34 => decodeRow .nv w (.chachaXcrypt (rndField w) (variantField w))
  | 0x35 => decodeRow .nv w (.chachaEnc (rndField w) (variantField w))
  | 0x36 => decodeRow .nv w (.chachaDec (rndField w) (variantField w))
  | _ => .error .opc

/-- A word from its three fields `OPC`, `RND`, `ARG` (30_encoding.md R71). -/
def packFields (opc : BitVec 8) (rnd : Nat) (arg : BitVec 16) : Word32 :=
  opc ++ (BitVec.ofNat 8 rnd ++ arg)

/-- The field `ARG` of format NE: `E` at bit 0 (30_encoding.md R74). -/
def argE (ecb : Bool) : BitVec 16 := if ecb then 1#16 else 0#16

/-- The field `ARG` of format NV: `V` at bit 1 (30_encoding.md R75). -/
def argV : Variant → BitVec 16
  | .djb => 0#16
  | .ietf => 2#16

/-- A word index as its 4-bit field (30_encoding.md R76). -/
def indexBits (i : Fin 16) : BitVec 4 := BitVec.ofNat 4 i.val

/-- The field `ARG` of format X: the indices at 15:12, 11:8, 7:4, 3:0 (30_encoding.md R76). -/
def argX (i j k l : Fin 16) : BitVec 16 := indexBits i ++ (indexBits j ++ (indexBits k ++ indexBits l))

/-- The word of a well-formed command (30_encoding.md R71 to R76, R78). Every command is one 32-bit word. -/
def encode : Instr → Word32
  | .fealS0 => packFields 0x10#8 0 0#16
  | .fealS1 => packFields 0x11#8 0 0#16
  | .fealF => packFields 0x12#8 0 0#16
  | .fealFk => packFields 0x13#8 0 0#16
  | .fealKs rnd => packFields 0x14#8 rnd 0#16
  | .fealEnc rnd ecb => packFields 0x15#8 rnd (argE ecb)
  | .fealDec rnd ecb => packFields 0x16#8 rnd (argE ecb)
  | .salsaQr => packFields 0x20#8 0 0#16
  | .salsaRr => packFields 0x21#8 0 0#16
  | .salsaCr => packFields 0x22#8 0 0#16
  | .salsaDr => packFields 0x23#8 0 0#16
  | .salsaHash rnd => packFields 0x24#8 rnd 0#16
  | .salsaExp rnd => packFields 0x25#8 rnd 0#16
  | .salsaXcrypt rnd => packFields 0x26#8 rnd 0#16
  | .salsaEnc rnd => packFields 0x27#8 rnd 0#16
  | .salsaDec rnd => packFields 0x28#8 rnd 0#16
  | .chachaQr => packFields 0x30#8 0 0#16
  | .chachaQrs i j k l => packFields 0x31#8 0 (argX i j k l)
  | .chachaHash rnd => packFields 0x32#8 rnd 0#16
  | .chachaExp rnd v => packFields 0x33#8 rnd (argV v)
  | .chachaXcrypt rnd v => packFields 0x34#8 rnd (argV v)
  | .chachaEnc rnd v => packFields 0x35#8 rnd (argV v)
  | .chachaDec rnd v => packFields 0x36#8 rnd (argV v)

/-- The command the decoder reads from a word whose low `nbits` bits are those of `w` and whose other bits are 0,
numbered as spec/opcode_table.json numbers them (every row is one 32-bit word). -/
def decodeTableWord (nbits w : Nat) : Option Instr :=
  match decode (BitVec.ofNat 32 (w % 2 ^ nbits)) with
  | .ok i => some i
  | .error _ => none

end Sys2Proof
end

