-- ==== Sys2Proof/Config.lean ====
section
/-! DEFINITION. What an instance of CORE fixes (00_scope.md R9, 92_eei_decisions.md D12, D18) and the free values
the spec leaves open (60_exceptions.md R183; notes/assumptions/2.md, 6.md). -/

namespace Sys2Proof.Config

/-- `DJB_CTR_ORDER`: the order of the two halves of the 64-bit ChaCha DJB counter in state words 12 and 13
(00_scope.md R9, 43_chacha.md R143). -/
inductive CtrOrder where
  /-- `ctr[63:32]` is state word 12. -/
  | hiFirst
  /-- `ctr[31:0]` is state word 12. -/
  | loFirst
deriving DecidableEq, Repr

/-- The parameters of an instance (00_scope.md R9). Each value of this type is a legal instance and each legal
instance is a value of it: `NMAX = 32 + 2 * nmaxSteps` is even and from 32 to 254, `DMAX = 512 * (1 + dmaxSteps)`
is a multiple of 512 from 512 to 65536. -/
structure Params where
  nmaxSteps : Fin 112
  dmaxSteps : Fin 128
  djbCtrOrder : CtrOrder
deriving DecidableEq, Repr

/-- `NMAX`, the largest FEAL round count a command may ask for (00_scope.md R9). -/
def Params.nmax (p : Params) : Nat := 32 + 2 * p.nmaxSteps.val

/-- `DMAX`, the capacity of `DIN` in bits (00_scope.md R9). -/
def Params.dmax (p : Params) : Nat := 512 * (1 + p.dmaxSteps.val)

/-- `DOUTMAX = DMAX + 128`, the capacity of `DOUT` in bits (00_scope.md R9, 10_state.md R27). -/
def Params.doutmax (p : Params) : Nat := p.dmax + 128

/-- The defaults of 00_scope.md R9: `NMAX = 254`, `DMAX = 65536`, `DJB_CTR_ORDER = hi_first`. -/
def Params.default : Params := ⟨111, 127, .hiFirst⟩

/-- FREE VALUE. `rng n k` is the `n`-bit value the random port `rng` supplies to the `k`-th draw (60_exceptions.md
R183): "must assume nothing about it". It has no body, so no proof can know it; notes/assumptions/2.md. -/
opaque rng (n k : Nat) : BitVec n

/-- FREE VALUE. What `DOUT` holds after a `FEAL.KS` whose `16 * (N + 8)`-bit result is wider than `DOUTMAX`: the spec
states no value there (10_state.md R27 against 00_scope.md R9). Applied to a counter; notes/assumptions/6.md. -/
opaque wideSchedule (k : Nat) : BitVec 65664

end Sys2Proof.Config
end

