-- ==== Sys2Proof/Machine/State.lean ====
section
/-! DEFINITION. The architectural state of CORE (10_state.md R20 to R36) as plain data, the host's side of the bus
that drives it (20_memory.md R50 to R54, 70_reset_and_hazards.md R190), and the reasons a step can stop. -/

namespace Sys2Proof.Machine

/-- The capacity of the `DIN` field of `State`: the largest `DMAX` an instance may have (00_scope.md R9). -/
abbrev dinBits : Nat := 65536

/-- The capacity of the `DOUT` field of `State`: the largest `DOUTMAX` (00_scope.md R9). -/
abbrev doutBits : Nat := 65664

/-- What the one agent outside CORE, the host, does at one step (00_scope.md section 7, 20_memory.md R59). -/
inductive HostEvent where
  /-- A bus read of `size` bytes at `addr` (20_memory.md R52). -/
  | read (addr : Addr) (size : Nat)
  /-- A bus write of `size` bytes at `addr`; `data` is what a write of the one legal size, 4, carries (R53). -/
  | write (addr : Addr) (size : Nat) (data : Word32)
  /-- The reset input is driven: `true` asserts it, `false` releases it (70_reset_and_hazards.md R190). -/
  | resetInput (level : Bool)
deriving DecidableEq, Repr

/-- The state of CORE. The registers, down to `trr`, are those of 10_state.md R20 and nothing else; the fields below
them are the model's own (notes/assumptions/1.md, 2.md, 3.md, 4.md, 6.md). -/
structure State where
  /-- The instance's parameters; no step changes them (00_scope.md R9, 70_reset_and_hazards.md R191). -/
  par : Config.Params
  /-- `KEY`, 256 bits (10_state.md R22). -/
  key : BitVec 256
  /-- `KEY_W` (10_state.md R22). -/
  keyW : Word32
  /-- `NONCE`, 128 bits (10_state.md R23). -/
  nonce : BitVec 128
  /-- `NONCE_W` (10_state.md R23). -/
  nonceW : Word32
  /-- `CTR`, 64 bits (10_state.md R24). -/
  ctr : BitVec 64
  /-- `CTR_W` (10_state.md R24). -/
  ctrW : Word32
  /-- `AUX`, 32 bits (10_state.md R25). -/
  aux : Word32
  /-- `AUX_W` (10_state.md R25). -/
  auxW : Word32
  /-- `DIN`, `DMAX` bits: the low `DMAX` bits of this field, the rest 0 (10_state.md R26; notes/assumptions/5.md). -/
  din : BitVec dinBits
  /-- `DIN_W` (10_state.md R26). -/
  dinW : Word32
  /-- `DOUT`, `DOUTMAX` bits: the low `DOUTMAX` bits of this field, the rest 0 (10_state.md R27). -/
  dout : BitVec doutBits
  /-- `DOUT_W` (10_state.md R27). -/
  doutW : Word32
  /-- `CMD` (10_state.md R29). -/
  cmd : Word32
  /-- `STATUS` (10_state.md R30). -/
  status : Word32
  /-- `TR_N` (10_state.md R32). -/
  trN : Word32
  /-- `TRL[0..255]`, entry 0 first (10_state.md R32). -/
  trl : List Word32
  /-- `TRR[0..255]`, entry 0 first (10_state.md R32). -/
  trr : List Word32
  /-- MODEL: what the host has issued and CORE has not yet met, oldest first (20_memory.md R59). -/
  bus : List HostEvent
  /-- MODEL: the word the last accepted bus read returned; `none` before the first (20_memory.md R52). -/
  readData : Option Word32
  /-- MODEL: the level of the reset input (70_reset_and_hazards.md R190). -/
  inReset : Bool
  /-- MODEL: how many draws the port `rng` has supplied (60_exceptions.md R183). -/
  draws : Nat
  /-- MODEL: how many unstated `FEAL.KS` results have been taken (notes/assumptions/6.md). -/
  unstated : Nat
deriving DecidableEq, Repr

/-- Why the bus refuses an access (20_memory.md R54). -/
inductive BusError where
  /-- R54 (a): its size is not 4 bytes. -/
  | size
  /-- R54 (b): `addr` is not a multiple of 4. -/
  | misaligned
  /-- R54 (c): `addr` is unmapped by R51. -/
  | unmapped
  /-- R54 (d): a write to a read-only register. -/
  | readOnly
deriving DecidableEq, Repr

/-- Why a step stops. Both are accesses of the host that CORE does not take; a command never stops the machine. -/
inductive Fault where
  /-- Raised by a bus read or write that 20_memory.md R54 refuses: "A model should make a refused access a fault of
  the host's step". SAFE: the run is marked as gone wrong and nothing is claimed of what follows. -/
  | busError (addr : Addr) (why : BusError)
  /-- Raised by a bus read or write while the reset input is asserted: "no bus access is accepted"
  (70_reset_and_hazards.md R190). SAFE, as above; notes/assumptions/4.md. -/
  | heldInReset (addr : Addr)
deriving DecidableEq, Repr

/-- Why a step has no meaning. -/
inductive Refusal where
  /-- Raised by an arm of `exec` whose command has no meaning yet. SAFE: nothing follows from such a step. No arm
  raises it: all 23 commands have their meaning. -/
  | notModelled (mnemonic : String)
deriving DecidableEq, Repr

/-- The trace window with every entry 0 (10_state.md R36). -/
def zeroTrace : List Word32 := List.replicate 256 0#32

/-- Every register at its reset value, which is 0 (10_state.md R36, 70_reset_and_hazards.md R191), on an instance with
the parameters `par` and with the model's own fields as given. -/
def State.resetWith (par : Config.Params) (bus : List HostEvent) (readData : Option Word32)
    (draws unstated : Nat) : State where
  par := par
  key := 0#256
  keyW := 0#32
  nonce := 0#128
  nonceW := 0#32
  ctr := 0#64
  ctrW := 0#32
  aux := 0#32
  auxW := 0#32
  din := 0#dinBits
  dinW := 0#32
  dout := 0#doutBits
  doutW := 0#32
  cmd := 0#32
  status := 0#32
  trN := 0#32
  trl := zeroTrace
  trr := zeroTrace
  bus := bus
  readData := readData
  inReset := false
  draws := draws
  unstated := unstated

/-- The machine right after reset: every register 0 (10_state.md R36), the instance with the default parameters
(00_scope.md R9), nothing issued yet by the host. -/
def State.reset : State := State.resetWith Config.Params.default [] none 0 0

end Sys2Proof.Machine
end

