-- ==== Sys2Proof/Machine/Bus.lean ====
section
/-! DEFINITION. The register space on the host bus: the address map (20_memory.md R51), the word order of multiword
registers (R55), and the reads and writes of registers (R52, R53) with the accesses the bus refuses (R54). -/

namespace Sys2Proof.Machine

/-- A 32-bit location of the register space (20_memory.md R51): a one-word register, or word `j` of a multiword one. -/
inductive Loc where
  | cmd | status | keyW | nonceW | ctrW | auxW | dinW | doutW
  | key (j : Nat)
  | nonce (j : Nat)
  | ctr (j : Nat)
  | aux
  | trN
  | trl (i : Nat)
  | trr (i : Nat)
  | din (j : Nat)
  | dout (j : Nat)
deriving DecidableEq, Repr

/-- The word index of an aligned byte offset from a base: `(addr - base) / 4` (20_memory.md R52). -/
def wordIndex (a base : Nat) : Nat := (a - base) / 4

/-- The address map of 20_memory.md R51, for an aligned byte address; `none` where it is unmapped. `DIN` and `DOUT` end
where the instance's `DMAX` and `DOUTMAX` end them. -/
def locate (p : Config.Params) (a : Nat) : Option Loc :=
  if a = 0x0000 then some .cmd
  else if a = 0x0004 then some .status
  else if a = 0x0008 then some .keyW
  else if a = 0x000C then some .nonceW
  else if a = 0x0010 then some .ctrW
  else if a = 0x0014 then some .auxW
  else if a = 0x0018 then some .dinW
  else if a = 0x001C then some .doutW
  else if 0x0020 ≤ a ∧ a ≤ 0x003C then some (.key (wordIndex a 0x0020))
  else if 0x0040 ≤ a ∧ a ≤ 0x004C then some (.nonce (wordIndex a 0x0040))
  else if 0x0050 ≤ a ∧ a ≤ 0x0054 then some (.ctr (wordIndex a 0x0050))
  else if a = 0x0058 then some .aux
  else if a = 0x005C then some .trN
  else if 0x0400 ≤ a ∧ a ≤ 0x07FC then some (.trl (wordIndex a 0x0400))
  else if 0x0800 ≤ a ∧ a ≤ 0x0BFC then some (.trr (wordIndex a 0x0800))
  else if 0x4000 ≤ a ∧ a < 0x4000 + p.dmax / 8 then some (.din (wordIndex a 0x4000))
  else if 0x8000 ≤ a ∧ a < 0x8000 + p.doutmax / 8 then some (.dout (wordIndex a 0x8000))
  else none

/-- The location is host-readable only (20_memory.md R51, R54 (d)). -/
def Loc.readOnly : Loc → Bool
  | .status => true
  | .doutW => true
  | .trN => true
  | .trl _ => true
  | .trr _ => true
  | .dout _ => true
  | .cmd => false
  | .keyW => false
  | .nonceW => false
  | .ctrW => false
  | .auxW => false
  | .dinW => false
  | .key _ => false
  | .nonce _ => false
  | .ctr _ => false
  | .aux => false
  | .din _ => false

/-- Word `j` of a multiword register, `X[32*j + 31 : 32*j]` (20_memory.md R55). -/
def readWord {c : Nat} (x : BitVec c) (j : Nat) : Word32 := x.extractLsb' (32 * j) 32

/-- The bits of word `j` of a `c`-bit register (20_memory.md R55). -/
def wordMask (c j : Nat) : BitVec c := (BitVec.setWidth c (BitVec.allOnes 32)) <<< (32 * j)

/-- Word `j` replaced by `v`, the other words unchanged (20_memory.md R53). -/
def writeWord {c : Nat} (x : BitVec c) (j : Nat) (v : Word32) : BitVec c :=
  (x &&& ~~~ wordMask c j) ||| ((v.setWidth c) <<< (32 * j))

/-- An entry of the trace window. -/
def traceEntry (l : List Word32) (i : Nat) : Word32 := l.getD i 0#32

/-- What a read of a location returns (20_memory.md R52). -/
def Loc.read (s : State) : Loc → Word32
  | .cmd => s.cmd
  | .status => s.status
  | .keyW => s.keyW
  | .nonceW => s.nonceW
  | .ctrW => s.ctrW
  | .auxW => s.auxW
  | .dinW => s.dinW
  | .doutW => s.doutW
  | .key j => readWord s.key j
  | .nonce j => readWord s.nonce j
  | .ctr j => readWord s.ctr j
  | .aux => s.aux
  | .trN => s.trN
  | .trl i => traceEntry s.trl i
  | .trr i => traceEntry s.trr i
  | .din j => readWord s.din j
  | .dout j => readWord s.dout j

/-- What a write of `v` stores at a location (20_memory.md R53); the command a write to `CMD` executes is
`runCommand`. A read-only location is never written: the bus refuses the access first (R54 (d)). -/
def Loc.write (s : State) (v : Word32) : Loc → State
  | .cmd => { s with cmd := v }
  | .keyW => { s with keyW := v }
  | .nonceW => { s with nonceW := v }
  | .ctrW => { s with ctrW := v }
  | .auxW => { s with auxW := v }
  | .dinW => { s with dinW := v }
  | .key j => { s with key := writeWord s.key j v }
  | .nonce j => { s with nonce := writeWord s.nonce j v }
  | .ctr j => { s with ctr := writeWord s.ctr j v }
  | .aux => { s with aux := v }
  | .din j => { s with din := writeWord s.din j v }
  | .status => s
  | .doutW => s
  | .trN => s
  | .trl _ => s
  | .trr _ => s
  | .dout _ => s

/-- The location an access reaches, or why the bus refuses it (20_memory.md R54 (a) to (c)). Where several grounds
hold, the first of the rule's list is named (notes/assumptions/7.md). -/
def reach (p : Config.Params) (addr : Addr) (size : Nat) : Except BusError Loc :=
  if size ≠ 4 then .error .size
  else if addr.toNat % 4 ≠ 0 then .error .misaligned
  else match locate p addr.toNat with
    | none => .error .unmapped
    | some loc => .ok loc

/-- The location a write reaches: as `reach`, and not a read-only one (20_memory.md R54 (d)). -/
def reachForWrite (p : Config.Params) (addr : Addr) (size : Nat) : Except BusError Loc :=
  match reach p addr size with
  | .error e => .error e
  | .ok loc => if loc.readOnly then .error .readOnly else .ok loc

end Sys2Proof.Machine
end

