-- ==== Sys2Proof/Machine/BitOps.lean ====
section
/-! DEFINITION. The BitOps datapath primitives (40_bitops.md R90 to R97) and the slices, splits and concatenations of
00_scope.md R11, R12 that every cipher function uses. -/

namespace Sys2Proof.Machine

/-- `rotl(x, s, w)` on its domain `0 <= s <= w` and no further (40_bitops.md R90, 92_eei_decisions.md D26). -/
def rotl {w : Nat} (x : BitVec w) (s : Nat) (_ : s ≤ w := by decide) : BitVec w :=
  (x <<< s) ||| (x >>> (w - s))

/-- `rotr(x, s, w)` on the same domain (40_bitops.md R91). No command uses it. -/
def rotr {w : Nat} (x : BitVec w) (s : Nat) (_ : s ≤ w := by decide) : BitVec w :=
  (x >>> s) ||| (x <<< (w - s))

/-- `add_mod(a, b, w)` (40_bitops.md R92). -/
def addMod {w : Nat} (a b : BitVec w) : BitVec w := BitVec.ofNat w (a.toNat + b.toNat)

/-- `concat(f 0, f 1, ..., f (n-1))` of `w`-bit values: element 0 is the most significant (00_scope.md R12). -/
def concatN {w : Nat} (f : Nat → BitVec w) : (n : Nat) → BitVec (w * n)
  | 0 => 0#(w * 0)
  | n + 1 => concatN f n ++ f n

/-- Chunk `j` of `split(v, n, w)`: chunk 0 is the most significant (00_scope.md R12). -/
def chunk (w n : Nat) {m : Nat} (v : BitVec m) (j : Nat) : BitVec w := v.extractLsb' (w * (n - 1 - j)) w

/-- `le(v, 8*n)`: byte `j` of the result, counted from the most significant, is byte `n-1-j` of `v`
(40_bitops.md R93). Defined for widths that are multiples of 8 only. -/
def le (n : Nat) (v : BitVec (8 * n)) : BitVec (8 * n) :=
  concatN (fun j => v.extractLsb' (8 * j) 8) n

/-- `le(., 32)` (40_bitops.md R95). -/
def le32 (v : Word32) : Word32 := le 4 v

/-- `le(., 64)` (40_bitops.md R95). -/
def le64 (v : BitVec 64) : BitVec 64 := le 8 v

/-- `split(v, 16, 32)`: a 512-bit value as a state, word 0 the most significant (00_scope.md R12). -/
def splitWords (v : BitVec 512) : Block16 := Vector.ofFn fun i => chunk 32 16 v i.val

/-- `x[0] || x[1] || ... || x[15]`: a state packed into 512 bits (00_scope.md R12). -/
def joinWords (x : Block16) : BitVec 512 := concatN (fun j => x[j]?.getD 0#32) 16

/-- `n` applications of `f`: the loops "repeat rounds / 2 times" (42_salsa20.md R124, 43_chacha.md R142). -/
def repeatN {α : Type} (f : α → α) : Nat → α → α
  | 0, x => x
  | n + 1, x => repeatN f n (f x)

/-- `ceil(a / b)` on natural numbers (40_bitops.md R94). -/
def ceilDiv (a b : Nat) : Nat := (a + b - 1) / b

/-- The `w` most significant bits of an `n`-bit value (42_salsa20.md R127, `ks[512*nb - 1 : 512*nb - W]`). -/
def topBits (w : Nat) {n : Nat} (v : BitVec n) : BitVec w := v.extractLsb' (n - w) w

end Sys2Proof.Machine
end

