-- ==== Sys2Proof/Machine/Flags.lean ====
section
/-! DEFINITION. The `STATUS` register: its fields (10_state.md R30), the error codes (60_exceptions.md R171 to R174),
the `EINFO` values (R175), and the two words a command can leave in it (R176, R178). -/

namespace Sys2Proof.Machine

/-- The four command errors (60_exceptions.md R171 to R174). -/
inductive ErrCode where
  | illegal | param | width | capacity
deriving DecidableEq, Repr

/-- What an error is about (60_exceptions.md R175). -/
inductive ErrInfo where
  | opc | rnd | mbz | key | nonce | ctr | aux | din | idx
deriving DecidableEq, Repr

/-- An error of a command: `E_<code>(info)`. -/
structure CmdError where
  code : ErrCode
  info : ErrInfo
deriving DecidableEq, Repr

/-- `ECODE` (60_exceptions.md R171 to R174). -/
def ErrCode.code : ErrCode → BitVec 8
  | .illegal => 1#8
  | .param => 2#8
  | .width => 3#8
  | .capacity => 4#8

/-- `EINFO` (60_exceptions.md R175). -/
def ErrInfo.code : ErrInfo → BitVec 8
  | .opc => 1#8
  | .rnd => 2#8
  | .mbz => 3#8
  | .key => 4#8
  | .nonce => 5#8
  | .ctr => 6#8
  | .aux => 7#8
  | .din => 8#8
  | .idx => 9#8

/-- `STATUS.OK`, bit 0 (10_state.md R30). -/
def statusOk (w : Word32) : Bool := w.getLsbD 0

/-- `STATUS.ERR`, bit 1 (10_state.md R30). -/
def statusErr (w : Word32) : Bool := w.getLsbD 1

/-- `STATUS.ESTK`, bit 2 (10_state.md R30). -/
def statusEstk (w : Word32) : Bool := w.getLsbD 2

/-- `STATUS.ECODE`, bits 15:8 (10_state.md R30). -/
def statusEcode (w : Word32) : BitVec 8 := w.extractLsb' 8 8

/-- `STATUS.EINFO`, bits 23:16 (10_state.md R30). -/
def statusEinfo (w : Word32) : BitVec 8 := w.extractLsb' 16 8

/-- `STATUS <- (EINFO << 16) | (ECODE << 8) | 0b110` (60_exceptions.md R176). -/
def failureStatus (e : CmdError) : Word32 := 0#8 ++ (e.info.code ++ (e.code.code ++ 6#8))

/-- `STATUS <- (ESTK << 2) | 0b001`, `ESTK` unchanged (60_exceptions.md R178). -/
def successStatus (old : Word32) : Word32 := if statusEstk old then 5#32 else 1#32

end Sys2Proof.Machine
end

