-- ==== Sys2Proof/Machine/Operands.lean ====
section
/-! DEFINITION. The operand registers and every check a command makes before it computes: `operand(X, allowed)`
(10_state.md R28) and the steps 2 and 3 of 60_exceptions.md R177. -/

namespace Sys2Proof.Machine

/-- The five operand registers (10_state.md R20). -/
inductive OpReg where
  | key | nonce | ctr | aux | din
deriving DecidableEq, Repr

/-- `id(X)`, the `EINFO` value of an operand register (60_exceptions.md R175). -/
def OpReg.info : OpReg → ErrInfo
  | .key => .key
  | .nonce => .nonce
  | .ctr => .ctr
  | .aux => .aux
  | .din => .din

/-- The capacity `C` of an operand register (10_state.md R28). -/
def OpReg.capacity (p : Config.Params) : OpReg → Nat
  | .key => 256
  | .nonce => 128
  | .ctr => 64
  | .aux => 32
  | .din => p.dmax

/-- The number in an operand register. -/
def OpReg.num (s : State) : OpReg → Nat
  | .key => s.key.toNat
  | .nonce => s.nonce.toNat
  | .ctr => s.ctr.toNat
  | .aux => s.aux.toNat
  | .din => s.din.toNat

/-- The width tag `X_W` of an operand register. -/
def OpReg.tag (s : State) : OpReg → Nat
  | .key => s.keyW.toNat
  | .nonce => s.nonceW.toNat
  | .ctr => s.ctrW.toNat
  | .aux => s.auxW.toNat
  | .din => s.dinW.toNat

/-- `raise E_<code>(info)`: the check fails (00_scope.md R14). -/
def raiseError {α : Type} (code : ErrCode) (info : ErrInfo) : Except CmdError α := .error ⟨code, info⟩

/-- The second test of 10_state.md R28: the register holds no bit at or above position `X_W`. -/
def checkFits (s : State) (x : OpReg) : Except CmdError Unit :=
  if x.tag s < x.capacity s.par ∧ 2 ^ x.tag s ≤ x.num s then raiseError .width x.info else .ok ()

/-- `operand(X, {w})`: the value of an operand register at the one width `w` (10_state.md R28). -/
def operand (s : State) (x : OpReg) (w : Nat) : Except CmdError (BitVec w) :=
  if x.tag s ≠ w then raiseError .width x.info
  else match checkFits s x with
    | .error e => .error e
    | .ok () => .ok (BitVec.ofNat w (x.num s))

/-- A Salsa20 key: "the key width selects the constant table" (42_salsa20.md R126). -/
inductive SalsaKey where
  | k128 (k : BitVec 128)
  | k256 (k : BitVec 256)
deriving DecidableEq, Repr

/-- `operand(KEY, {128, 256})` (42_salsa20.md R133 to R136). -/
def salsaKeyOperand (s : State) : Except CmdError SalsaKey :=
  if OpReg.key.tag s = 128 then
    match operand s .key 128 with
    | .error e => .error e
    | .ok k => .ok (.k128 k)
  else
    match operand s .key 256 with
    | .error e => .error e
    | .ok k => .ok (.k256 k)

/-- `DIN` at any width from `least` to `DMAX`: capacity, then the least length of the DEC commands, then the
over-wide test, in that order (60_exceptions.md R177 step 3, 10_state.md R28). -/
def textOperand (s : State) (least : Nat) : Except CmdError Value :=
  if s.par.dmax < OpReg.din.tag s then raiseError .capacity .din
  else if OpReg.din.tag s < least then raiseError .width .din
  else match checkFits s .din with
    | .error e => .error e
    | .ok () => .ok ⟨OpReg.din.tag s, BitVec.ofNat _ (OpReg.din.num s)⟩

/-- FEAL round counts: odd or below 2 is `E_PARAM(F_RND)`, above `NMAX` is `E_CAPACITY(F_RND)`
(60_exceptions.md R177 step 2). -/
def checkFealRounds (s : State) (n : Nat) : Except CmdError Unit :=
  if n % 2 = 1 ∨ n < 2 then raiseError .param .rnd
  else if s.par.nmax < n then raiseError .capacity .rnd
  else .ok ()

/-- Salsa20 and ChaCha round counts: 8, 12 or 20 (60_exceptions.md R177 step 2). -/
def checkStreamRounds (n : Nat) : Except CmdError Unit :=
  if n = 8 ∨ n = 12 ∨ n = 20 then .ok () else raiseError .param .rnd

/-- The indices of `CHACHA.QRS` are pairwise distinct (60_exceptions.md R177 step 2). -/
def checkIndices (i j k l : Fin 16) : Except CmdError Unit :=
  if i = j ∨ i = k ∨ i = l ∨ j = k ∨ j = l ∨ k = l then raiseError .param .idx else .ok ()

end Sys2Proof.Machine
end

