-- ==== Sys2Proof/Machine/SalsaCore.lean ====
section
/-! DEFINITION. The pure functions of Salsa20 (42_salsa20.md R120 to R127). -/

namespace Sys2Proof.Machine

/-- `salsa_quarterround(y0, y1, y2, y3)`: four sequential lines, `z0` last (42_salsa20.md R120). -/
def salsaQuarterround (y0 y1 y2 y3 : Word32) : Word32 × Word32 × Word32 × Word32 :=
  let z1 := y1 ^^^ rotl (addMod y0 y3) 7
  let z2 := y2 ^^^ rotl (addMod z1 y0) 9
  let z3 := y3 ^^^ rotl (addMod z2 z1) 13
  let z0 := y0 ^^^ rotl (addMod z3 z2) 18
  (z0, z1, z2, z3)

/-- `rowround(y)` (42_salsa20.md R121). -/
def rowround (y : Block16) : Block16 :=
  let (z0, z1, z2, z3) := salsaQuarterround y[0] y[1] y[2] y[3]
  let (z5, z6, z7, z4) := salsaQuarterround y[5] y[6] y[7] y[4]
  let (z10, z11, z8, z9) := salsaQuarterround y[10] y[11] y[8] y[9]
  let (z15, z12, z13, z14) := salsaQuarterround y[15] y[12] y[13] y[14]
  #v[z0, z1, z2, z3, z4, z5, z6, z7, z8, z9, z10, z11, z12, z13, z14, z15]

/-- `columnround(x)` (42_salsa20.md R122). -/
def columnround (x : Block16) : Block16 :=
  let (y0, y4, y8, y12) := salsaQuarterround x[0] x[4] x[8] x[12]
  let (y5, y9, y13, y1) := salsaQuarterround x[5] x[9] x[13] x[1]
  let (y10, y14, y2, y6) := salsaQuarterround x[10] x[14] x[2] x[6]
  let (y15, y3, y7, y11) := salsaQuarterround x[15] x[3] x[7] x[11]
  #v[y0, y1, y2, y3, y4, y5, y6, y7, y8, y9, y10, y11, y12, y13, y14, y15]

/-- `doubleround(x) = rowround(columnround(x))` (42_salsa20.md R123). -/
def doubleround (x : Block16) : Block16 := rowround (columnround x)

/-- The word-wise feed-forward addition and the byte reversal of each word that end both hashes (42_salsa20.md R124,
43_chacha.md R142). -/
def feedForward (z w : Block16) : BitVec 512 :=
  joinWords (Vector.ofFn fun i => le32 (addMod z[i] w[i]))

/-- `salsa_hash(x, rounds)` (42_salsa20.md R124). -/
def salsaHash (x : BitVec 512) (rounds : Nat) : BitVec 512 :=
  let w := (splitWords x).map le32
  feedForward (repeatN doubleround (rounds / 2) w) w

/-- `sigma0` to `sigma3` (42_salsa20.md R125). -/
def sigma0 : Word32 := 0x65787061#32
def sigma1 : Word32 := 0x6E642033#32
def sigma2 : Word32 := 0x322D6279#32
def sigma3 : Word32 := 0x7465206B#32

/-- `tau0` to `tau3` (42_salsa20.md R125). -/
def tau0 : Word32 := 0x65787061#32
def tau1 : Word32 := 0x6E642031#32
def tau2 : Word32 := 0x362D6279#32
def tau3 : Word32 := 0x7465206B#32

/-- `c0 || k0 || c1 || nonce || c2 || k1 || c3` (42_salsa20.md R126, 90_conflicts.md C3). -/
def salsaMatrix (key : SalsaKey) (nonce : BitVec 128) : BitVec 512 :=
  match key with
  | .k128 k => tau0 ++ k ++ tau1 ++ nonce ++ tau2 ++ k ++ tau3
  | .k256 k =>
    sigma0 ++ k.extractLsb' 128 128 ++ sigma1 ++ nonce ++ sigma2 ++ k.extractLsb' 0 128 ++ sigma3

/-- `salsa_expansion(key, kw, nonce, rounds)` (42_salsa20.md R126). -/
def salsaExpansion (key : SalsaKey) (nonce : BitVec 128) (rounds : Nat) : BitVec 512 :=
  salsaHash (salsaMatrix key nonce) rounds

/-- Keystream block `c`: the expansion of `iv || le(c, 64)` (42_salsa20.md R127). -/
def salsaBlock (key : SalsaKey) (iv : BitVec 64) (rounds c : Nat) : BitVec 512 :=
  salsaExpansion key (iv ++ le64 (BitVec.ofNat 64 c)) rounds

/-- `text xor ksW`, where `ksW` is the `W` most significant bits of the blocks in order (42_salsa20.md R127,
43_chacha.md R144). -/
def xorKeystream (block : Nat → BitVec 512) {w : Nat} (text : BitVec w) : BitVec w :=
  text ^^^ topBits w (concatN block (ceilDiv w 512))

/-- `salsa_xcrypt(key, kw, text, W, iv, rounds)` (42_salsa20.md R127). -/
def salsaXcrypt (key : SalsaKey) (iv : BitVec 64) (rounds : Nat) {w : Nat} (text : BitVec w) : BitVec w :=
  xorKeystream (salsaBlock key iv rounds) text

end Sys2Proof.Machine
end

