-- ==== Sys2Proof/Machine/ChachaCore.lean ====
section
/-! DEFINITION. The pure functions of ChaCha (43_chacha.md R140 to R144). -/

namespace Sys2Proof.Machine

/-- `chacha_quarterround(a, b, c, d)` in the single-assignment form of 43_chacha.md R140. -/
def chachaQuarterround (a b c d : Word32) : Word32 × Word32 × Word32 × Word32 :=
  let a1 := addMod a b
  let d1 := rotl (d ^^^ a1) 16
  let c1 := addMod c d1
  let b1 := rotl (b ^^^ c1) 12
  let a2 := addMod a1 b1
  let d2 := rotl (d1 ^^^ a2) 8
  let c2 := addMod c1 d2
  let b2 := rotl (b1 ^^^ c2) 7
  (a2, b2, c2, d2)

/-- `quarterround_state(s, i, j, k, l)`, meant for pairwise distinct indices (43_chacha.md R141); the command refuses
any others (R146), so the order of the write-back is never seen. -/
def quarterroundState (s : Block16) (i j k l : Fin 16) : Block16 :=
  let (a, b, c, d) := chachaQuarterround s[i] s[j] s[k] s[l]
  (((s.set i a).set j b).set k c).set l d

/-- One iteration of `chacha_hash`: a column round, then a diagonal round (43_chacha.md R142). -/
def chachaDoubleround (w : Block16) : Block16 :=
  let w := quarterroundState w 0 4 8 12
  let w := quarterroundState w 1 5 9 13
  let w := quarterroundState w 2 6 10 14
  let w := quarterroundState w 3 7 11 15
  let w := quarterroundState w 0 5 10 15
  let w := quarterroundState w 1 6 11 12
  let w := quarterroundState w 2 7 8 13
  quarterroundState w 3 4 9 14

/-- `chacha_hash(s, rounds)` (43_chacha.md R142). -/
def chachaHash (s : Block16) (rounds : Nat) : BitVec 512 :=
  feedForward (repeatN chachaDoubleround (rounds / 2) s) s

/-- nw, the nonce width of the variant (43_chacha.md, 30_encoding.md R75). -/
def nonceWidth : Variant → Nat
  | .djb => 64
  | .ietf => 96

/-- cw, the counter width of the variant (43_chacha.md, 30_encoding.md R75). -/
def ctrWidth : Variant → Nat
  | .djb => 64
  | .ietf => 32

/-- Words 12 to 15 of the initial state: the counter as a number, then the nonce words byte-reversed; where the DJB
counter has two words their order is the instance's (43_chacha.md R143, 92_eei_decisions.md D18). -/
def chachaLastRow (order : Config.CtrOrder) (v : Variant) (nonce : BitVec (nonceWidth v))
    (ctr : BitVec (ctrWidth v)) : Word32 × Word32 × Word32 × Word32 :=
  match v with
  | .ietf =>
    (ctr, le32 (chunk 32 3 nonce 0), le32 (chunk 32 3 nonce 1), le32 (chunk 32 3 nonce 2))
  | .djb =>
    match order with
    | .hiFirst =>
      (ctr.extractLsb' 32 32, ctr.extractLsb' 0 32, le32 (chunk 32 2 nonce 0), le32 (chunk 32 2 nonce 1))
    | .loFirst =>
      (ctr.extractLsb' 0 32, ctr.extractLsb' 32 32, le32 (chunk 32 2 nonce 0), le32 (chunk 32 2 nonce 1))

/-- `chacha_state(key, nonce, counter, V)` (43_chacha.md R143). -/
def chachaState (order : Config.CtrOrder) (v : Variant) (key : BitVec 256) (nonce : BitVec (nonceWidth v))
    (ctr : BitVec (ctrWidth v)) : Block16 :=
  let k := fun m => le32 (chunk 32 8 key m)
  let (s12, s13, s14, s15) := chachaLastRow order v nonce ctr
  #v[le32 sigma0, le32 sigma1, le32 sigma2, le32 sigma3,
     k 0, k 1, k 2, k 3, k 4, k 5, k 6, k 7, s12, s13, s14, s15]

/-- `chacha_expansion(key, nonce, counter, V, rounds)` (43_chacha.md R143). -/
def chachaExpansion (order : Config.CtrOrder) (v : Variant) (key : BitVec 256) (nonce : BitVec (nonceWidth v))
    (ctr : BitVec (ctrWidth v)) (rounds : Nat) : BitVec 512 :=
  chachaHash (chachaState order v key nonce ctr) rounds

/-- Keystream block `c`: the expansion at the counter `add_mod(ctr0, c, cw)` (43_chacha.md R144). -/
def chachaBlock (order : Config.CtrOrder) (v : Variant) (key : BitVec 256) (nonce : BitVec (nonceWidth v))
    (ctr0 : BitVec (ctrWidth v)) (rounds c : Nat) : BitVec 512 :=
  chachaExpansion order v key nonce (addMod ctr0 (BitVec.ofNat _ c)) rounds

/-- `chacha_xcrypt(key, text, W, nonce, ctr0, V, rounds)` (43_chacha.md R144). -/
def chachaXcrypt (order : Config.CtrOrder) (v : Variant) (key : BitVec 256) (nonce : BitVec (nonceWidth v))
    (ctr0 : BitVec (ctrWidth v)) (rounds : Nat) {w : Nat} (text : BitVec w) : BitVec w :=
  xorKeystream (chachaBlock order v key nonce ctr0 rounds) text

end Sys2Proof.Machine
end

