-- ==== Sys2Proof/Machine/Ops.lean ====
section
/-! DEFINITION. What a command does to the state: fail (60_exceptions.md R176), succeed with a result (R178,
10_state.md R27), take a draw (60_exceptions.md R183), write the trace window (10_state.md R32). CORE's errors are its
only exceptions and they have no handler, so there is no return from one (60_exceptions.md R179). -/

namespace Sys2Proof.Machine

/-- What a step of CORE answers. -/
abbrev Result := Host.Outcome State Fault Refusal

/-- A failed command: `STATUS` and nothing else (60_exceptions.md R176). `CMD` was written by the access itself. -/
def fail (e : CmdError) (s : State) : State := { s with status := failureStatus e }

/-- A successful command: `DOUT <- zext(result)`, `DOUT_W <-` its width (10_state.md R27), `STATUS` by
60_exceptions.md R178. -/
def succeed (v : Value) (s : State) : State :=
  { s with
    dout := v.bits.setWidth doutBits
    doutW := BitVec.ofNat 32 v.width
    status := successStatus s.status }

/-- A successful `FEAL.KS` whose `width`-bit result is wider than `DOUTMAX`: the spec states `DOUT_W` and `STATUS` and
no value of `DOUT`, which takes a free value of `DOUTMAX` bits (notes/assumptions/6.md). -/
def succeedUnstated (width : Nat) (s : State) : State :=
  { s with
    dout := BitVec.ofNat doutBits ((Config.wideSchedule s.unstated).toNat % 2 ^ s.par.doutmax)
    doutW := BitVec.ofNat 32 width
    status := successStatus s.status
    unstated := s.unstated + 1 }

/-- `draw(n)`: the value the port `rng` supplies now (60_exceptions.md R183). -/
def drawn (n : Nat) (s : State) : BitVec n := Config.rng n s.draws

/-- The draw has been taken: the next one is another value. -/
def tookDraw (s : State) : State := { s with draws := s.draws + 1 }

/-- 256 trace entries: those given, then zeros (10_state.md R32). -/
def traceEntries (l : List Word32) : List Word32 := l ++ List.replicate (256 - l.length) 0#32

/-- The trace window after a block with the history `(L[0], R[0]), ..., (L[N], R[N])`; the empty history, of an ECB
command on an empty text, clears it (10_state.md R32). -/
def writeTrace (hist : List (Word32 × Word32)) (s : State) : State :=
  { s with
    trN := BitVec.ofNat 32 hist.length
    trl := traceEntries (hist.map Prod.fst)
    trr := traceEntries (hist.map Prod.snd) }

/-- The shape of every command (00_scope.md R15, 30_encoding.md R70 steps 3 to 5): the checks; if one raises, the
failure and nothing else; if all pass, the effect on the operands they give. -/
def afterChecks {α : Type} (checks : Except CmdError α) (effect : α → State) (s : State) : Result :=
  match checks with
  | .error e => .next (fail e s)
  | .ok a => .next (effect a)

end Sys2Proof.Machine
end

