-- ==== Sys2Proof/Machine/Salsa.lean ====
section
/-! DEFINITION. The nine Salsa20 commands (42_salsa20.md R128 to R136). -/

namespace Sys2Proof.Machine

/-- The result of a quarterround command: the four words of `DIN` through `qr`, packed again (42_salsa20.md R128,
43_chacha.md R145). -/
def quarterResult (qr : Word32 → Word32 → Word32 → Word32 → Word32 × Word32 × Word32 × Word32)
    (y : BitVec 128) : Value :=
  let (z0, z1, z2, z3) := qr (chunk 32 4 y 0) (chunk 32 4 y 1) (chunk 32 4 y 2) (chunk 32 4 y 3)
  ⟨128, z0 ++ z1 ++ z2 ++ z3⟩

/-- `SALSA.QR` (42_salsa20.md R128). -/
def execSalsaQr (s : State) : Result :=
  afterChecks (operand s .din 128) (fun y => succeed (quarterResult salsaQuarterround y) s) s

/-- The result of a round command: the 16 words of `DIN` through `round`, as numbers (42_salsa20.md R129). -/
def roundResult (round : Block16 → Block16) (x : BitVec 512) : Value :=
  ⟨512, joinWords (round (splitWords x))⟩

/-- `SALSA.RR` (42_salsa20.md R129). -/
def execSalsaRr (s : State) : Result :=
  afterChecks (operand s .din 512) (fun x => succeed (roundResult rowround x) s) s

/-- `SALSA.CR` (42_salsa20.md R130). -/
def execSalsaCr (s : State) : Result :=
  afterChecks (operand s .din 512) (fun x => succeed (roundResult columnround x) s) s

/-- `SALSA.DR` (42_salsa20.md R131). -/
def execSalsaDr (s : State) : Result :=
  afterChecks (operand s .din 512) (fun x => succeed (roundResult doubleround x) s) s

/-- A round count, then `DIN` at 512 bits: the checks of both hash commands (42_salsa20.md R132, 43_chacha.md R147). -/
def hashOperands (rounds : Nat) (s : State) : Except CmdError (BitVec 512) :=
  match checkStreamRounds rounds with
  | .error e => .error e
  | .ok () => operand s .din 512

/-- `SALSA.HASH r=rounds` (42_salsa20.md R132). -/
def execSalsaHash (rounds : Nat) (s : State) : Result :=
  afterChecks (hashOperands rounds s) (fun x => succeed ⟨512, salsaHash x rounds⟩ s) s

/-- A round count, then a Salsa20 key (42_salsa20.md R133). -/
def salsaKeyed (rounds : Nat) (s : State) : Except CmdError SalsaKey :=
  match checkStreamRounds rounds with
  | .error e => .error e
  | .ok () => salsaKeyOperand s

/-- The checks of `SALSA.EXP` (42_salsa20.md R133). -/
def salsaExpOperands (rounds : Nat) (s : State) : Except CmdError (SalsaKey × BitVec 128) :=
  match salsaKeyed rounds s with
  | .error e => .error e
  | .ok k =>
    match operand s .nonce 128 with
    | .error e => .error e
    | .ok n => .ok (k, n)

/-- `SALSA.EXP r=rounds` (42_salsa20.md R133). -/
def execSalsaExp (rounds : Nat) (s : State) : Result :=
  afterChecks (salsaExpOperands rounds s) (fun kn => succeed ⟨512, salsaExpansion kn.1 kn.2 rounds⟩ s) s

/-- A Salsa20 key and a text of at least `least` bits: the checks of `SALSA.ENC` and `SALSA.DEC` (42_salsa20.md R135,
R136). -/
def salsaTextOperands (rounds least : Nat) (s : State) : Except CmdError (SalsaKey × Value) :=
  match salsaKeyed rounds s with
  | .error e => .error e
  | .ok k =>
    match textOperand s least with
    | .error e => .error e
    | .ok t => .ok (k, t)

/-- The checks of `SALSA.XCRYPT`, the key before the IV before the text (42_salsa20.md R134). -/
def salsaXcryptOperands (rounds : Nat) (s : State) : Except CmdError (SalsaKey × BitVec 64 × Value) :=
  match salsaKeyed rounds s with
  | .error e => .error e
  | .ok k =>
    match operand s .nonce 64 with
    | .error e => .error e
    | .ok iv =>
      match textOperand s 0 with
      | .error e => .error e
      | .ok t => .ok (k, iv, t)

/-- `SALSA.XCRYPT r=rounds` (42_salsa20.md R134). -/
def execSalsaXcrypt (rounds : Nat) (s : State) : Result :=
  afterChecks (salsaXcryptOperands rounds s)
    (fun o => succeed ⟨o.2.2.width, salsaXcrypt o.1 o.2.1 rounds o.2.2.bits⟩ s) s

/-- The result of `SALSA.ENC` for a drawn `iv`: `iv || salsa_xcrypt(...)` (42_salsa20.md R135). -/
def salsaEncrypted (key : SalsaKey) (text : Value) (rounds : Nat) (iv : BitVec 64) : Value :=
  ⟨64 + text.width, iv ++ salsaXcrypt key iv rounds text.bits⟩

/-- `SALSA.ENC r=rounds`: the draw is taken only after all checks have passed (42_salsa20.md R135). -/
def execSalsaEnc (rounds : Nat) (s : State) : Result :=
  afterChecks (salsaTextOperands rounds 0 s)
    (fun kt => succeed (salsaEncrypted kt.1 kt.2 rounds (drawn 64 s)) (tookDraw s)) s

/-- The result of `SALSA.DEC`: the first 64 bits of the text are the IV (42_salsa20.md R136). -/
def salsaDecrypted (key : SalsaKey) (text : Value) (rounds : Nat) : Value :=
  ⟨text.width - 64,
    salsaXcrypt key (text.bits.extractLsb' (text.width - 64) 64) rounds
      (text.bits.extractLsb' 0 (text.width - 64))⟩

/-- `SALSA.DEC r=rounds`: the text has at least 65 bits (42_salsa20.md R136). -/
def execSalsaDec (rounds : Nat) (s : State) : Result :=
  afterChecks (salsaTextOperands rounds 65 s) (fun kt => succeed (salsaDecrypted kt.1 kt.2 rounds) s) s

end Sys2Proof.Machine
end

