-- ==== Sys2Proof/Machine/Chacha.lean ====
section
/-! DEFINITION. The seven ChaCha commands (43_chacha.md R145 to R151). -/

namespace Sys2Proof.Machine

/-- `CHACHA.QR` (43_chacha.md R145). -/
def execChachaQr (s : State) : Result :=
  afterChecks (operand s .din 128) (fun y => succeed (quarterResult chachaQuarterround y) s) s

/-- The checks of `CHACHA.QRS` (43_chacha.md R146). -/
def qrsOperands (i j k l : Fin 16) (s : State) : Except CmdError (BitVec 512) :=
  match checkIndices i j k l with
  | .error e => .error e
  | .ok () => operand s .din 512

/-- `CHACHA.QRS i, j, k, l` (43_chacha.md R146). -/
def execChachaQrs (i j k l : Fin 16) (s : State) : Result :=
  afterChecks (qrsOperands i j k l s)
    (fun x => succeed (roundResult (fun b => quarterroundState b i j k l) x) s) s

/-- `CHACHA.HASH r=rounds` (43_chacha.md R147). -/
def execChachaHash (rounds : Nat) (s : State) : Result :=
  afterChecks (hashOperands rounds s) (fun x => succeed ⟨512, chachaHash (splitWords x) rounds⟩ s) s

/-- A round count, then the 256-bit key (43_chacha.md R148). -/
def chachaKeyed (rounds : Nat) (s : State) : Except CmdError (BitVec 256) :=
  match checkStreamRounds rounds with
  | .error e => .error e
  | .ok () => operand s .key 256

/-- The operands of `CHACHA.EXP`: key, nonce, counter. -/
structure ChachaOperands (v : Variant) where
  key : BitVec 256
  nonce : BitVec (nonceWidth v)
  ctr : BitVec (ctrWidth v)
deriving DecidableEq, Repr

/-- The checks of `CHACHA.EXP`, in the order key, nonce, counter (43_chacha.md R148). -/
def chachaExpOperands (rounds : Nat) (v : Variant) (s : State) : Except CmdError (ChachaOperands v) :=
  match chachaKeyed rounds s with
  | .error e => .error e
  | .ok k =>
    match operand s .nonce (nonceWidth v) with
    | .error e => .error e
    | .ok n =>
      match operand s .ctr (ctrWidth v) with
      | .error e => .error e
      | .ok c => .ok ⟨k, n, c⟩

/-- `CHACHA.EXP r=rounds, djb|ietf` (43_chacha.md R148). -/
def execChachaExp (rounds : Nat) (v : Variant) (s : State) : Result :=
  afterChecks (chachaExpOperands rounds v s)
    (fun o => succeed ⟨512, chachaExpansion s.par.djbCtrOrder v o.key o.nonce o.ctr rounds⟩ s) s

/-- The checks of `CHACHA.XCRYPT`: those of `CHACHA.EXP`, then the text (43_chacha.md R149). -/
def chachaXcryptOperands (rounds : Nat) (v : Variant) (s : State) :
    Except CmdError (ChachaOperands v × Value) :=
  match chachaExpOperands rounds v s with
  | .error e => .error e
  | .ok o =>
    match textOperand s 0 with
    | .error e => .error e
    | .ok t => .ok (o, t)

/-- `CHACHA.XCRYPT r=rounds, djb|ietf` (43_chacha.md R149). -/
def execChachaXcrypt (rounds : Nat) (v : Variant) (s : State) : Result :=
  afterChecks (chachaXcryptOperands rounds v s)
    (fun ot => succeed
      ⟨ot.2.width, chachaXcrypt s.par.djbCtrOrder v ot.1.key ot.1.nonce ot.1.ctr rounds ot.2.bits⟩ s) s

/-- The operands of `CHACHA.ENC` and `CHACHA.DEC`: key, initial counter, text; `NONCE` is neither read nor checked. -/
structure ChachaTextOperands (v : Variant) where
  key : BitVec 256
  ctr : BitVec (ctrWidth v)
  text : Value
deriving DecidableEq, Repr

/-- The checks of `CHACHA.ENC` and `CHACHA.DEC`, in the order key, counter, text (43_chacha.md R150, R151). -/
def chachaTextOperands (rounds : Nat) (v : Variant) (least : Nat) (s : State) :
    Except CmdError (ChachaTextOperands v) :=
  match chachaKeyed rounds s with
  | .error e => .error e
  | .ok k =>
    match operand s .ctr (ctrWidth v) with
    | .error e => .error e
    | .ok c =>
      match textOperand s least with
      | .error e => .error e
      | .ok t => .ok ⟨k, c, t⟩

/-- The result of `CHACHA.ENC` for a drawn nonce: `n || chacha_xcrypt(...)` (43_chacha.md R150). -/
def chachaEncrypted (order : Config.CtrOrder) (v : Variant) (o : ChachaTextOperands v) (rounds : Nat)
    (n : BitVec (nonceWidth v)) : Value :=
  ⟨nonceWidth v + o.text.width, n ++ chachaXcrypt order v o.key n o.ctr rounds o.text.bits⟩

/-- `CHACHA.ENC r=rounds, djb|ietf`: the draw is taken only after all checks have passed (43_chacha.md R150). -/
def execChachaEnc (rounds : Nat) (v : Variant) (s : State) : Result :=
  afterChecks (chachaTextOperands rounds v 0 s)
    (fun o => succeed (chachaEncrypted s.par.djbCtrOrder v o rounds (drawn (nonceWidth v) s)) (tookDraw s)) s

/-- The result of `CHACHA.DEC`: the first nw bits of the text are the nonce (43_chacha.md R151). -/
def chachaDecrypted (order : Config.CtrOrder) (v : Variant) (o : ChachaTextOperands v) (rounds : Nat) : Value :=
  ⟨o.text.width - nonceWidth v,
    chachaXcrypt order v o.key (o.text.bits.extractLsb' (o.text.width - nonceWidth v) (nonceWidth v)) o.ctr
      rounds (o.text.bits.extractLsb' 0 (o.text.width - nonceWidth v))⟩

/-- `CHACHA.DEC r=rounds, djb|ietf`: the text has at least nw + 1 bits (43_chacha.md R151). -/
def execChachaDec (rounds : Nat) (v : Variant) (s : State) : Result :=
  afterChecks (chachaTextOperands rounds v (nonceWidth v + 1) s)
    (fun o => succeed (chachaDecrypted s.par.djbCtrOrder v o rounds) s) s

end Sys2Proof.Machine
end

