-- ==== Sys2Proof/Machine/Ecb.lean ====
section
/-! DEFINITION. The ECB block splitter (44_ecb.md R160 to R163). It has no opcode: the flag `E` of `FEAL.ENC` and
`FEAL.DEC` selects it (R164). -/

namespace Sys2Proof.Machine

/-- Chunk `m` of a text of width `w` padded on the left with zeros to `ceil(w / bs)` blocks; chunk 0 is the most
significant (44_ecb.md R161, R162). -/
def ecbChunk (bs : Nat) {w : Nat} (text : BitVec w) (m : Nat) : BitVec bs :=
  chunk bs (ceilDiv w bs) (text.setWidth (bs * ceilDiv w bs)) m

/-- `ecb(fn, bs, T, W)`: each padded chunk through `fn` on its own, the results in order, at the padded width
(44_ecb.md R162). -/
def ecb (bs : Nat) (fn : BitVec bs → BitVec bs) {w : Nat} (text : BitVec w) : BitVec (bs * ceilDiv w bs) :=
  concatN (fun m => fn (ecbChunk bs text m)) (ceilDiv w bs)

end Sys2Proof.Machine
end

