-- ==== Sys2Proof/Machine/FealCore.lean ====
section
/-! DEFINITION. The pure functions of FEAL-NX (41_feal.md R100 to R106), with the two corrections of 90_conflicts.md
C1 (the fold lands in the lower half) and C2 (decryption ends with `sk[N..N+4)`). -/

namespace Sys2Proof.Machine

/-- `s0(a, b)` (41_feal.md R100). -/
def fealS0 (a b : Byte) : Byte := rotl (addMod a b) 2

/-- `s1(a, b)`: the 1 is added before the reduction modulo 256 (41_feal.md R101). -/
def fealS1 (a b : Byte) : Byte := rotl (addMod (addMod a b) 1#8) 2

/-- Byte `j` of a 32-bit value, byte 0 the most significant (00_scope.md R12). -/
def byteOf (a : Word32) (j : Nat) : Byte := chunk 8 4 a j

/-- Byte `j` of a 16-bit value, byte 0 the most significant (00_scope.md R12). -/
def byteOfHalf (b : Half) (j : Nat) : Byte := chunk 8 2 b j

/-- `f(a, b)` in the single-assignment form of 41_feal.md R102. -/
def fealF (a : Word32) (b : Half) : Word32 :=
  let t1 := byteOf a 1 ^^^ byteOfHalf b 0 ^^^ byteOf a 0
  let t2 := byteOf a 2 ^^^ byteOfHalf b 1 ^^^ byteOf a 3
  let u1 := fealS1 t1 t2
  let u2 := fealS0 t2 u1
  let u0 := fealS0 (byteOf a 0) u1
  let u3 := fealS1 (byteOf a 3) u2
  u0 ++ u1 ++ u2 ++ u3

/-- `fk(a, b)` in the single-assignment form of 41_feal.md R103. -/
def fealFk (a b : Word32) : Word32 :=
  let t1 := byteOf a 1 ^^^ byteOf a 0
  let t2 := byteOf a 2 ^^^ byteOf a 3
  let u1 := fealS1 t1 (t2 ^^^ byteOf b 0)
  let u2 := fealS0 t2 (u1 ^^^ byteOf b 1)
  let u0 := fealS0 (byteOf a 0) (u1 ^^^ byteOf b 2)
  let u3 := fealS1 (byteOf a 3) (u2 ^^^ byteOf b 3)
  u0 ++ u1 ++ u2 ++ u3

/-- `q[r]` of the key schedule, from the two halves of `KR` (41_feal.md R104). -/
def scheduleQ (kr1 kr2 : Word32) (r : Nat) : Word32 :=
  if r % 3 = 1 then kr1 ^^^ kr2 else if r % 3 = 2 then kr1 else kr2

/-- Iterations `r, r + 1, ...` of the key schedule, `n` of them, from `a[r-1]`, `b[r-1]`, `d[r-1]`: each emits the
upper and the lower half of `b[r]` (41_feal.md R104). -/
def scheduleFrom (kr1 kr2 : Word32) : (n r : Nat) → (a b d : Word32) → List Half
  | 0, _, _, _, _ => []
  | n + 1, r, a, b, d =>
    let b' := fealFk a (b ^^^ d ^^^ scheduleQ kr1 kr2 r)
    b'.extractLsb' 16 16 :: b'.extractLsb' 0 16 :: scheduleFrom kr1 kr2 n (r + 1) b b' a

/-- `key_schedule(K, N)`, the subkeys `sk[0..N+8)` (41_feal.md R104). -/
def keySchedule (k : BitVec 128) (n : Nat) : List Half :=
  scheduleFrom (k.extractLsb' 32 32) (k.extractLsb' 0 32) (n / 2 + 4) 1
    (k.extractLsb' 96 32) (k.extractLsb' 64 32) 0#32

/-- `sk[i]`. -/
def subkey (sk : List Half) (i : Nat) : Half := sk.getD i 0#16

/-- `concat(sk[i], sk[i+1], sk[i+2], sk[i+3])` (41_feal.md R105). -/
def subkeys4 (sk : List Half) (i : Nat) : Block64 := concatN (fun j => subkey sk (i + j)) 4

/-- `concat(sk[0], ..., sk[N+7])` (41_feal.md R111). -/
def packSchedule (sk : List Half) (n : Nat) : BitVec (16 * (n + 8)) := concatN (subkey sk) (n + 8)

/-- The upper half of a block. -/
def upper32 (p : Block64) : Word32 := p.extractLsb' 32 32

/-- The lower half of a block. -/
def lower32 (p : Block64) : Word32 := p.extractLsb' 0 32

/-- The fold: the upper half is XORed into the lower half (41_feal.md R105, 90_conflicts.md C1). -/
def fold (p : Block64) : Block64 := p ^^^ (upper32 p).setWidth 64

/-- The round subkeys `sk[0..N)` in round order (41_feal.md R105). -/
def roundKeys (sk : List Half) (n : Nat) : List Half := (List.range n).map (subkey sk)

/-- `(L[i-1], R[i-1])` and every later pair, for the round subkeys `sk[i-1], ...` still to come: `R[i] = L[i-1] xor
f(R[i-1], sk[i-1])`, `L[i] = R[i-1]` (41_feal.md R105). -/
def encryptRounds : List Half → Word32 × Word32 → List (Word32 × Word32)
  | [], lr => [lr]
  | k :: ks, lr => lr :: encryptRounds ks (lr.2, lr.1 ^^^ fealF lr.2 k)

/-- `(L[i], R[i])` and every earlier pair, for the round subkeys `sk[i-1], ..., sk[0]`: `L[i-1] = R[i] xor
f(L[i], sk[i-1])`, `R[i-1] = L[i]` (41_feal.md R106). -/
def decryptRounds : List Half → Word32 × Word32 → List (Word32 × Word32)
  | [], lr => [lr]
  | k :: ks, lr => lr :: decryptRounds ks (lr.2 ^^^ fealF lr.1 k, lr.1)

/-- What a block function gives: the block, and the history `(L[0], R[0]), ..., (L[N], R[N])` (10_state.md R32). -/
structure BlockResult where
  block : Block64
  history : List (Word32 × Word32)
deriving DecidableEq, Repr

/-- `feal_encrypt_block(sk, P, N)` with its history (41_feal.md R105). -/
def fealEncryptBlock (sk : List Half) (n : Nat) (p : Block64) : BlockResult :=
  let p2 := fold (p ^^^ subkeys4 sk n)
  let hist := encryptRounds (roundKeys sk n) (upper32 p2, lower32 p2)
  let last := hist.getLastD (0#32, 0#32)
  let c1 : Block64 := last.2 ++ last.1
  ⟨fold c1 ^^^ subkeys4 sk (n + 4), hist⟩

/-- `feal_decrypt_block(sk, C, N)` with its history, stored at the document's round index (41_feal.md R106,
10_state.md R32). -/
def fealDecryptBlock (sk : List Half) (n : Nat) (c : Block64) : BlockResult :=
  let c2 := fold (c ^^^ subkeys4 sk (n + 4))
  let hist := (decryptRounds (roundKeys sk n).reverse (lower32 c2, upper32 c2)).reverse
  let first := hist.headD (0#32, 0#32)
  let p1 : Block64 := first.1 ++ first.2
  ⟨fold p1 ^^^ subkeys4 sk n, hist⟩

end Sys2Proof.Machine
end

