-- ==== Sys2Proof/Machine/Feal.lean ====
section
/-! DEFINITION. The seven FEAL commands (41_feal.md R107 to R113). -/

namespace Sys2Proof.Machine

/-- The operands of the unit commands: `b = operand(AUX, {wb})`, then `a = operand(DIN, {wa})` (41_feal.md R107). -/
def unitOperands (wa wb : Nat) (s : State) : Except CmdError (BitVec wa × BitVec wb) :=
  match operand s .aux wb with
  | .error e => .error e
  | .ok b =>
    match operand s .din wa with
    | .error e => .error e
    | .ok a => .ok (a, b)

/-- `FEAL.S0` (41_feal.md R107). -/
def execFealS0 (s : State) : Result :=
  afterChecks (unitOperands 8 8 s) (fun ab => succeed ⟨8, fealS0 ab.1 ab.2⟩ s) s

/-- `FEAL.S1` (41_feal.md R108). -/
def execFealS1 (s : State) : Result :=
  afterChecks (unitOperands 8 8 s) (fun ab => succeed ⟨8, fealS1 ab.1 ab.2⟩ s) s

/-- `FEAL.F` (41_feal.md R109). -/
def execFealF (s : State) : Result :=
  afterChecks (unitOperands 32 16 s) (fun ab => succeed ⟨32, fealF ab.1 ab.2⟩ s) s

/-- `FEAL.FK` (41_feal.md R110). -/
def execFealFk (s : State) : Result :=
  afterChecks (unitOperands 32 32 s) (fun ab => succeed ⟨32, fealFk ab.1 ab.2⟩ s) s

/-- The round count, then the key: the checks that the three keyed FEAL commands share (41_feal.md R111, R112). -/
def fealKeyOperand (n : Nat) (s : State) : Except CmdError (BitVec 128) :=
  match checkFealRounds s n with
  | .error e => .error e
  | .ok () => operand s .key 128

/-- The result of `FEAL.KS` for a key (41_feal.md R111). A schedule wider than `DOUTMAX` is the one result the spec
gives no value of `DOUT` for (notes/assumptions/6.md). -/
def scheduleResult (n : Nat) (s : State) (k : BitVec 128) : State :=
  if 16 * (n + 8) ≤ s.par.doutmax then
    succeed ⟨16 * (n + 8), packSchedule (keySchedule k n) n⟩ s
  else succeedUnstated (16 * (n + 8)) s

/-- `FEAL.KS n=N` (41_feal.md R111). -/
def execFealKs (n : Nat) (s : State) : Result :=
  afterChecks (fealKeyOperand n s) (scheduleResult n s) s

/-- The key and the text of `FEAL.ENC` and `FEAL.DEC`: `DIN` at 64 bits without the flag `E`, at any width with it
(41_feal.md R112, 44_ecb.md R164). -/
def fealOperands (n : Nat) (ecb : Bool) (s : State) : Except CmdError (BitVec 128 × Value) :=
  match fealKeyOperand n s with
  | .error e => .error e
  | .ok k =>
    match ecb with
    | false =>
      match operand s .din 64 with
      | .error e => .error e
      | .ok t => .ok (k, ⟨64, t⟩)
    | true =>
      match textOperand s 0 with
      | .error e => .error e
      | .ok t => .ok (k, t)

/-- The history of the last block an ECB command processed, or the empty history when it processed none
(10_state.md R32, 44_ecb.md R164). -/
def lastHistory (fn : Block64 → BlockResult) {w : Nat} (text : BitVec w) : List (Word32 × Word32) :=
  if ceilDiv w 64 = 0 then [] else (fn (ecbChunk 64 text (ceilDiv w 64 - 1))).history

/-- The ECB driver around a block function: the result at the padded width and the trace of the last chunk
(41_feal.md R112, 44_ecb.md R164). -/
def ecbResult (fn : Block64 → BlockResult) (text : Value) (s : State) : State :=
  writeTrace (lastHistory fn text.bits)
    (succeed ⟨64 * ceilDiv text.width 64, ecb 64 (fun b => (fn b).block) text.bits⟩ s)

/-- One block: the result at 64 bits and its trace (41_feal.md R112). -/
def blockResult (fn : Block64 → BlockResult) (block : Block64) (s : State) : State :=
  writeTrace (fn block).history (succeed ⟨64, (fn block).block⟩ s)

/-- The effect of `FEAL.ENC` or `FEAL.DEC` on its operands, the block function given (41_feal.md R112, R113). -/
def fealEffect (fn : Block64 → BlockResult) (ecb : Bool) (text : Value) (s : State) : State :=
  match ecb with
  | false => blockResult fn (text.bits.setWidth 64) s
  | true => ecbResult fn text s

/-- `FEAL.ENC n=N [, ecb]` (41_feal.md R112). -/
def execFealEnc (n : Nat) (ecb : Bool) (s : State) : Result :=
  afterChecks (fealOperands n ecb s)
    (fun kt => fealEffect (fealEncryptBlock (keySchedule kt.1 n) n) ecb kt.2 s) s

/-- `FEAL.DEC n=N [, ecb]` (41_feal.md R113). -/
def execFealDec (n : Nat) (ecb : Bool) (s : State) : Result :=
  afterChecks (fealOperands n ecb s)
    (fun kt => fealEffect (fealDecryptBlock (keySchedule kt.1 n) n) ecb kt.2 s) s

end Sys2Proof.Machine
end

