-- ==== Sys2Proof/Machine/Dispatch.lean ====
section
/-! DEFINITION. What each of the 23 commands does: one arm per constructor of `Instr`, one call of its meaning each. -/

namespace Sys2Proof.Machine

def exec (i : Instr) (s : State) : Host.Outcome State Fault Refusal :=
  match i with
  | .fealS0 => Sys2Proof.Machine.execFealS0 s
  | .fealS1 => Sys2Proof.Machine.execFealS1 s
  | .fealF => Sys2Proof.Machine.execFealF s
  | .fealFk => Sys2Proof.Machine.execFealFk s
  | .fealKs rnd => Sys2Proof.Machine.execFealKs rnd s
  | .fealEnc rnd ecb => Sys2Proof.Machine.execFealEnc rnd ecb s
  | .fealDec rnd ecb => Sys2Proof.Machine.execFealDec rnd ecb s
  | .salsaQr => Sys2Proof.Machine.execSalsaQr s
  | .salsaRr => Sys2Proof.Machine.execSalsaRr s
  | .salsaCr => Sys2Proof.Machine.execSalsaCr s
  | .salsaDr => Sys2Proof.Machine.execSalsaDr s
  | .salsaHash rnd => Sys2Proof.Machine.execSalsaHash rnd s
  | .salsaExp rnd => Sys2Proof.Machine.execSalsaExp rnd s
  | .salsaXcrypt rnd => Sys2Proof.Machine.execSalsaXcrypt rnd s
  | .salsaEnc rnd => Sys2Proof.Machine.execSalsaEnc rnd s
  | .salsaDec rnd => Sys2Proof.Machine.execSalsaDec rnd s
  | .chachaQr => Sys2Proof.Machine.execChachaQr s
  | .chachaQrs a b c d => Sys2Proof.Machine.execChachaQrs a b c d s
  | .chachaHash rnd => Sys2Proof.Machine.execChachaHash rnd s
  | .chachaExp rnd v => Sys2Proof.Machine.execChachaExp rnd v s
  | .chachaXcrypt rnd v => Sys2Proof.Machine.execChachaXcrypt rnd v s
  | .chachaEnc rnd v => Sys2Proof.Machine.execChachaEnc rnd v s
  | .chachaDec rnd v => Sys2Proof.Machine.execChachaDec rnd v s

end Sys2Proof.Machine
end

