-- ==== Sys2Proof/Machine/Port.lean ====
section
/-! DEFINITION. What one event of the host does: a bus read (20_memory.md R52), a bus write with the command a write to
`CMD` executes (R53, 30_encoding.md R70), and the reset input (70_reset_and_hazards.md R190). -/

namespace Sys2Proof.Machine

/-- The error of a word that is no command (60_exceptions.md R171). -/
def rejectError : DecodeReject → CmdError
  | .opc => ⟨.illegal, .opc⟩
  | .mbz => ⟨.illegal, .mbz⟩

/-- Executing the word just stored in `CMD` (30_encoding.md R70 steps 2 to 5). -/
def runCommand (w : Word32) (s : State) : Result :=
  match decode w with
  | .error r => .next (fail (rejectError r) s)
  | .ok i => exec i s

/-- `MemWrite(addr, size, v)` (20_memory.md R53, R54). -/
def busWrite (addr : Addr) (size : Nat) (v : Word32) (s : State) : Result :=
  match reachForWrite s.par addr size with
  | .error e => .fault (.busError addr e)
  | .ok .cmd => runCommand v (Loc.cmd.write s v)
  | .ok loc => .next (loc.write s v)

/-- `MemRead(addr, size)`: the word is returned to the host and no register changes (20_memory.md R52, R54). -/
def busRead (addr : Addr) (size : Nat) (s : State) : Result :=
  match reach s.par addr size with
  | .error e => .fault (.busError addr e)
  | .ok loc => .next { s with readData := some (loc.read s) }

/-- The release of the reset input: every register takes its reset value; the parameters, what the host has issued,
what it has read and the position of the random port are outside CORE's registers and stay (70_reset_and_hazards.md
R190, R191; notes/assumptions/4.md). -/
def releaseReset (s : State) : State := State.resetWith s.par s.bus s.readData s.draws s.unstated

/-- Driving the reset input: asserting it holds CORE, releasing it when it was asserted resets CORE, and a level it
already has changes nothing (70_reset_and_hazards.md R190). -/
def driveReset (level : Bool) (s : State) : State :=
  match level with
  | true => { s with inReset := true }
  | false => if s.inReset then releaseReset s else s

/-- One event of the host. While the reset input is asserted "no bus access is accepted"
(70_reset_and_hazards.md R190). -/
def hostEvent (e : HostEvent) (s : State) : Result :=
  match e with
  | .resetInput level => .next (driveReset level s)
  | .read addr size => if s.inReset then .fault (.heldInReset addr) else busRead addr size s
  | .write addr size v => if s.inReset then .fault (.heldInReset addr) else busWrite addr size v s

/-- One step: the oldest event the host has issued; with none, "it holds its state and does nothing"
(60_exceptions.md R184, 20_memory.md R59). -/
def hostStep (s : State) : Result :=
  match s.bus with
  | [] => .next s
  | e :: rest => hostEvent e { s with bus := rest }

/-- `s` with the write of the command word `w` to `CMD` as the host's next access, the reset input released. -/
def presentCommand (s : State) (w : Word32) : State :=
  { s with bus := .write 0x0000#16 4 w :: s.bus, inReset := false }

end Sys2Proof.Machine
end

