-- ==== Sys2Proof/Machine/Step.lean ====
section
/-! DEFINITION. The step of the machine, and how a command word is placed where the next step takes it. -/

namespace Sys2Proof.Machine

/-- One step of CORE: one event of the host (00_scope.md section 7, 20_memory.md R59). -/
def step (s : State) : Host.Outcome State Fault Refusal := hostStep s

/-- `s` with the command word whose low `nbits` bits are those of `w`, the others 0, as the host's next write to `CMD`
(10_state.md R21: "the host presents it by writing `CMD`"; notes/assumptions/3.md). -/
def State.withFetchWord (s : State) (nbits w : Nat) : State :=
  presentCommand s (BitVec.ofNat 32 (w % 2 ^ nbits))

end Sys2Proof.Machine
end

