-- ==== Sys2Proof/Safety.lean ====
section
/-! DEFINITION. What a good state and a safe step are, in the terms the statements use. -/

namespace Sys2Proof.Machine

/-- The words `STATUS` can hold (60_exceptions.md R178): 0 after reset, the two successes, and a failure with a code
and an `EINFO` that R171 to R174 pair. -/
def statusWords : List Word32 :=
  [0x00000000#32, 0x00000001#32, 0x00000005#32,
   0x00010106#32, 0x00030106#32,
   0x00020206#32, 0x00090206#32,
   0x00040306#32, 0x00050306#32, 0x00060306#32, 0x00070306#32, 0x00080306#32,
   0x00020406#32, 0x00080406#32]

/-- The trace window is one a command can leave: 256 entries each, `TR_N` zero or `N + 1` for an even `N >= 2`, and
every entry from `TR_N` on zero (10_state.md R32, R36). -/
structure TraceLegal (s : State) : Prop where
  leftLength : s.trl.length = 256
  rightLength : s.trr.length = 256
  count : s.trN.toNat = 0 ∨ (s.trN.toNat % 2 = 1 ∧ 3 ≤ s.trN.toNat ∧ s.trN.toNat ≤ s.par.nmax + 1)
  leftZero : ∀ i, s.trN.toNat ≤ i → traceEntry s.trl i = 0#32
  rightZero : ∀ i, s.trN.toNat ≤ i → traceEntry s.trr i = 0#32

/-- The invariant of CORE. `DIN` holds nothing above `DMAX` and `DOUT` nothing above `DOUTMAX` (10_state.md R26, R27),
`DOUT` holds nothing at or above `DOUT_W` (R27), `STATUS` is one of its words (60_exceptions.md R178), the trace window
is legal (10_state.md R32). -/
structure State.Inv (s : State) : Prop where
  dinFits : s.din.toNat < 2 ^ s.par.dmax
  doutFits : s.dout.toNat < 2 ^ s.par.doutmax
  doutInWidth : s.dout.toNat < 2 ^ s.doutW.toNat
  statusWord : s.status ∈ statusWords
  trace : TraceLegal s

/-- The access is one the bus does not refuse (20_memory.md R54) and the reset input does not hold off
(70_reset_and_hazards.md R190). -/
def HostEvent.accepted (s : State) : HostEvent → Bool
  | .read addr size => !s.inReset && (reach s.par addr size).toBool
  | .write addr size _ => !s.inReset && (reachForWrite s.par addr size).toBool
  | .resetInput _ => true

/-- A safe step answers a next state: neither a fault nor a refusal. -/
def SafeStep (s : State) : Prop := ∃ t, step s = .next t

end Sys2Proof.Machine
end

