-- ==== Sys2Proof/Certificates/Slice0/Obligations.lean ====
section
/-! DEFINITION. The statements for the provers. The definitions of `Sys2Proof.Claims` say the spec's rules again, in
terms of bits and words and without the model's own functions, so that a statement compares the two. -/

namespace Sys2Proof.Claims

open Sys2Proof Sys2Proof.Machine

/-! ### Results and operands -/

/-- `STATUS` after a success: `OK` set, `ESTK` as it was, the rest 0 (60_exceptions.md R178). -/
def okStatus (s : State) : Word32 := if s.status.getLsbD 2 then 0x00000005#32 else 0x00000001#32

/-- `s` after a success with the `w`-bit result `v`, and nothing else changed (10_state.md R27, 60_exceptions.md R178). -/
def done {w : Nat} (v : BitVec w) (s : State) : State :=
  { s with dout := v.setWidth 65664, doutW := BitVec.ofNat 32 w, status := okStatus s }

/-- `s` after a failure that leaves the word `st` in `STATUS` (60_exceptions.md R176). -/
def failed (st : Word32) (s : State) : State := { s with status := st }

/-- `KEY` holds the `w`-bit value `v` (10_state.md R28). -/
def KeyHolds (s : State) {w : Nat} (v : BitVec w) : Prop := s.keyW.toNat = w ∧ s.key.toNat = v.toNat

/-- `NONCE` holds the `w`-bit value `v` (10_state.md R28). -/
def NonceHolds (s : State) {w : Nat} (v : BitVec w) : Prop := s.nonceW.toNat = w ∧ s.nonce.toNat = v.toNat

/-- `CTR` holds the `w`-bit value `v` (10_state.md R28). -/
def CtrHolds (s : State) {w : Nat} (v : BitVec w) : Prop := s.ctrW.toNat = w ∧ s.ctr.toNat = v.toNat

/-- `AUX` holds the `w`-bit value `v` (10_state.md R28). -/
def AuxHolds (s : State) {w : Nat} (v : BitVec w) : Prop := s.auxW.toNat = w ∧ s.aux.toNat = v.toNat

/-- `DIN` holds the `w`-bit value `v`, and `w` is within `DMAX` (10_state.md R28). -/
def DinHolds (s : State) {w : Nat} (v : BitVec w) : Prop :=
  s.dinW.toNat = w ∧ s.din.toNat = v.toNat ∧ w ≤ s.par.dmax

/-- `KEY` holds a Salsa20 key of 128 or of 256 bits (42_salsa20.md R126). -/
def SalsaKeyHolds (s : State) : SalsaKey → Prop
  | .k128 k => KeyHolds s k
  | .k256 k => KeyHolds s k

/-- A Salsa20 or ChaCha round count (60_exceptions.md R172). -/
def StreamRounds (n : Nat) : Prop := n = 8 ∨ n = 12 ∨ n = 20

/-- A FEAL round count the instance takes (60_exceptions.md R172, R174). -/
def FealRounds (s : State) (n : Nat) : Prop := n % 2 = 0 ∧ 2 ≤ n ∧ n ≤ s.par.nmax

/-! ### FEAL (41_feal.md) -/

/-- `s0(a, b)` (41_feal.md R100). -/
def S0 (a b : BitVec 8) : BitVec 8 := (a + b).rotateLeft 2

/-- `s1(a, b)` (41_feal.md R101). -/
def S1 (a b : BitVec 8) : BitVec 8 := (a + b + 1#8).rotateLeft 2

/-- `f(a, b)` (41_feal.md R102). -/
def F (a : Word32) (b : BitVec 16) : Word32 :=
  let a0 := a.extractLsb' 24 8
  let a1 := a.extractLsb' 16 8
  let a2 := a.extractLsb' 8 8
  let a3 := a.extractLsb' 0 8
  let f1 := S1 (a1 ^^^ b.extractLsb' 8 8 ^^^ a0) (a2 ^^^ b.extractLsb' 0 8 ^^^ a3)
  let f2 := S0 (a2 ^^^ b.extractLsb' 0 8 ^^^ a3) f1
  S0 a0 f1 ++ f1 ++ f2 ++ S1 a3 f2

/-- `fk(a, b)` (41_feal.md R103). -/
def FK (a b : Word32) : Word32 :=
  let a0 := a.extractLsb' 24 8
  let a1 := a.extractLsb' 16 8
  let a2 := a.extractLsb' 8 8
  let a3 := a.extractLsb' 0 8
  let fk1 := S1 (a1 ^^^ a0) ((a2 ^^^ a3) ^^^ b.extractLsb' 24 8)
  let fk2 := S0 (a2 ^^^ a3) (fk1 ^^^ b.extractLsb' 16 8)
  S0 a0 (fk1 ^^^ b.extractLsb' 8 8) ++ fk1 ++ fk2 ++ S1 a3 (fk2 ^^^ b.extractLsb' 0 8)

/-- `(a[r], b[r], d[r])` of the key schedule (41_feal.md R104). -/
def abd (k : BitVec 128) : Nat → Word32 × Word32 × Word32
  | 0 => (k.extractLsb' 96 32, k.extractLsb' 64 32, 0#32)
  | r + 1 =>
    let kr1 : Word32 := k.extractLsb' 32 32
    let kr2 : Word32 := k.extractLsb' 0 32
    let q := if (r + 1) % 3 = 1 then kr1 ^^^ kr2 else if (r + 1) % 3 = 2 then kr1 else kr2
    let (a, b, d) := abd k r
    (b, FK a (b ^^^ d ^^^ q), a)

/-- `sk[j]`: the upper half of `b[j/2 + 1]` for an even `j`, the lower half for an odd one (41_feal.md R104). -/
def SK (k : BitVec 128) (j : Nat) : BitVec 16 :=
  let b := (abd k (j / 2 + 1)).2.1
  if j % 2 = 0 then b.extractLsb' 16 16 else b.extractLsb' 0 16

/-- `sk[j] || sk[j+1]`. -/
def SK2 (k : BitVec 128) (j : Nat) : Word32 := SK k j ++ SK k (j + 1)

/-- `(L[i], R[i])` of the encryption of `p` (41_feal.md R105, the "Equivalently" form). -/
def encLR (k : BitVec 128) (n : Nat) (p : Block64) : Nat → Word32 × Word32
  | 0 =>
    let l := p.extractLsb' 32 32 ^^^ SK2 k n
    (l, p.extractLsb' 0 32 ^^^ SK2 k (n + 2) ^^^ l)
  | i + 1 => ((encLR k n p i).2, (encLR k n p i).1 ^^^ F (encLR k n p i).2 (SK k i))

/-- The ciphertext of `p` (41_feal.md R105). -/
def encBlock (k : BitVec 128) (n : Nat) (p : Block64) : Block64 :=
  ((encLR k n p n).2 ^^^ SK2 k (n + 4)) ++
    ((encLR k n p n).1 ^^^ (encLR k n p n).2 ^^^ SK2 k (n + 6))

/-- `(L[N - m], R[N - m])` of the decryption of `c` (41_feal.md R106). -/
def decDown (k : BitVec 128) (n : Nat) (c : Block64) : Nat → Word32 × Word32
  | 0 =>
    let r := c.extractLsb' 32 32 ^^^ SK2 k (n + 4)
    (c.extractLsb' 0 32 ^^^ SK2 k (n + 6) ^^^ r, r)
  | m + 1 => ((decDown k n c m).2 ^^^ F (decDown k n c m).1 (SK k (n - m - 1)), (decDown k n c m).1)

/-- `(L[i], R[i])` of the decryption of `c` (41_feal.md R106). -/
def decLR (k : BitVec 128) (n : Nat) (c : Block64) (i : Nat) : Word32 × Word32 := decDown k n c (n - i)

/-- The plaintext of `c` (41_feal.md R106, with the subkeys `sk[N..N+4)` of 90_conflicts.md C2). -/
def decBlock (k : BitVec 128) (n : Nat) (c : Block64) : Block64 :=
  ((decLR k n c 0).1 ^^^ SK2 k n) ++ ((decLR k n c 0).2 ^^^ (decLR k n c 0).1 ^^^ SK2 k (n + 2))

/-- `s` with the history `h[0..N]` in the trace window and zeros after it (10_state.md R32). -/
def traced (n : Nat) (h : Nat → Word32 × Word32) (s : State) : State :=
  { s with
    trN := BitVec.ofNat 32 (n + 1)
    trl := (List.range 256).map fun i => if i ≤ n then (h i).1 else 0#32
    trr := (List.range 256).map fun i => if i ≤ n then (h i).2 else 0#32 }

/-- `s` with the trace window cleared (10_state.md R32). -/
def untraced (s : State) : State :=
  { s with trN := 0#32, trl := List.replicate 256 0#32, trr := List.replicate 256 0#32 }

/-- The number of 64-bit blocks that cover `w` bits (44_ecb.md R161). -/
def blocks64 (w : Nat) : Nat := (w + 63) / 64

/-- Chunk `m` of a text padded on the left with zeros, chunk 0 the most significant (44_ecb.md R161, R162). -/
def paddedChunk {w : Nat} (t : BitVec w) (m : Nat) : Block64 :=
  BitVec.ofNat 64 (t.toNat / 2 ^ (64 * (blocks64 w - 1 - m)))

/-- What an ECB command leaves, for the block function `fn` and its history `h` (44_ecb.md R162, R164, 10_state.md
R32): the blocks in order at the padded width, and the trace of the last of them. -/
def EcbLeaves (fn : Block64 → Block64) (h : Block64 → Nat → Word32 × Word32) (n : Nat) {w : Nat} (t : BitVec w)
    (s s' : State) : Prop :=
  ∃ out : BitVec (64 * blocks64 w),
    (∀ m, m < blocks64 w → out.extractLsb' (64 * (blocks64 w - 1 - m)) 64 = fn (paddedChunk t m)) ∧
    s' = if blocks64 w = 0 then untraced (done out s)
      else traced n (h (paddedChunk t (blocks64 w - 1))) (done out s)

/-! ### Words of a state, Salsa20 (42_salsa20.md) -/

/-- Word `i` of a 512-bit value, word 0 the most significant (00_scope.md R12). -/
def word (x : BitVec 512) (i : Nat) : Word32 := x.extractLsb' (32 * (15 - i)) 32

/-- The byte reversal of a 32-bit value (40_bitops.md R93). -/
def swap32 (v : Word32) : Word32 :=
  v.extractLsb' 0 8 ++ v.extractLsb' 8 8 ++ v.extractLsb' 16 8 ++ v.extractLsb' 24 8

/-- The byte reversal of a 64-bit value (40_bitops.md R93). -/
def swap64 (v : BitVec 64) : BitVec 64 :=
  swap32 (v.extractLsb' 0 32) ++ swap32 (v.extractLsb' 32 32)

/-- `salsa_quarterround` (42_salsa20.md R120). -/
def QR (y0 y1 y2 y3 : Word32) : Word32 × Word32 × Word32 × Word32 :=
  let z1 := y1 ^^^ (y0 + y3).rotateLeft 7
  let z2 := y2 ^^^ (z1 + y0).rotateLeft 9
  let z3 := y3 ^^^ (z2 + z1).rotateLeft 13
  let z0 := y0 ^^^ (z3 + z2).rotateLeft 18
  (z0, z1, z2, z3)

/-- `z` is `rowround(y)`: word `j` taken from row `r` is word `4*r + ((r + j) mod 4)` (42_salsa20.md R121). -/
def RowRound (y z : BitVec 512) : Prop :=
  ∀ r, r < 4 → (word z (4 * r + r % 4), word z (4 * r + (r + 1) % 4), word z (4 * r + (r + 2) % 4),
      word z (4 * r + (r + 3) % 4)) =
    QR (word y (4 * r + r % 4)) (word y (4 * r + (r + 1) % 4)) (word y (4 * r + (r + 2) % 4))
      (word y (4 * r + (r + 3) % 4))

/-- `y` is `columnround(x)`: word `j` taken from column `c` is word `4*((c + j) mod 4) + c` (42_salsa20.md R122). -/
def ColumnRound (x y : BitVec 512) : Prop :=
  ∀ c, c < 4 → (word y (4 * (c % 4) + c), word y (4 * ((c + 1) % 4) + c), word y (4 * ((c + 2) % 4) + c),
      word y (4 * ((c + 3) % 4) + c)) =
    QR (word x (4 * (c % 4) + c)) (word x (4 * ((c + 1) % 4) + c)) (word x (4 * ((c + 2) % 4) + c))
      (word x (4 * ((c + 3) % 4) + c))

/-- `z` is `doubleround(x)`: the column round first (42_salsa20.md R123). -/
def DoubleRound (x z : BitVec 512) : Prop := ∃ y, ColumnRound x y ∧ RowRound y z

/-- `out` is `salsa_hash(x, rounds)` (42_salsa20.md R124). -/
def SalsaHash (x : BitVec 512) (rounds : Nat) (out : BitVec 512) : Prop :=
  ∃ z : Nat → BitVec 512,
    (∀ i, i < 16 → word (z 0) i = swap32 (word x i)) ∧
    (∀ m, m < rounds / 2 → DoubleRound (z m) (z (m + 1))) ∧
    (∀ i, i < 16 → word out i = swap32 (word (z (rounds / 2)) i + word (z 0) i))

/-- The matrix of `salsa_expansion` (42_salsa20.md R125, R126). -/
def matrix (nonce : BitVec 128) : SalsaKey → BitVec 512
  | .k256 k => 0x65787061#32 ++ k.extractLsb' 128 128 ++ 0x6E642033#32 ++ nonce ++ 0x322D6279#32 ++
      k.extractLsb' 0 128 ++ 0x7465206B#32
  | .k128 k => 0x65787061#32 ++ k ++ 0x6E642031#32 ++ nonce ++ 0x362D6279#32 ++ k ++ 0x7465206B#32

/-- `out` is `text xor ksW`: the text's bit `m` from the top meets bit `m` from the top of the keystream, block
`m / 512` (42_salsa20.md R127, 43_chacha.md R144). -/
def KeystreamXor (ks : Nat → BitVec 512) {w : Nat} (t out : BitVec w) : Prop :=
  ∀ m, m < w → out.getLsbD (w - 1 - m) = (t.getLsbD (w - 1 - m) != (ks (m / 512)).getLsbD (511 - m % 512))

/-- `out` is `salsa_xcrypt(key, kw, t, W, iv, rounds)` (42_salsa20.md R127). -/
def SalsaXcrypt (key : SalsaKey) (iv : BitVec 64) (rounds : Nat) {w : Nat} (t out : BitVec w) : Prop :=
  ∃ ks : Nat → BitVec 512,
    (∀ c, 512 * c < w → SalsaHash (matrix (iv ++ swap64 (BitVec.ofNat 64 c)) key) rounds (ks c)) ∧
    KeystreamXor ks t out

/-! ### ChaCha (43_chacha.md) -/

/-- `chacha_quarterround` (43_chacha.md R140). -/
def CQR (a b c d : Word32) : Word32 × Word32 × Word32 × Word32 :=
  let a := a + b
  let d := (d ^^^ a).rotateLeft 16
  let c := c + d
  let b := (b ^^^ c).rotateLeft 12
  let a := a + b
  let d := (d ^^^ a).rotateLeft 8
  let c := c + d
  let b := (b ^^^ c).rotateLeft 7
  (a, b, c, d)

/-- `z` is `quarterround_state(x, i, j, k, l)` for pairwise distinct indices (43_chacha.md R141). -/
def StateQR (x : BitVec 512) (i j k l : Nat) (z : BitVec 512) : Prop :=
  (word z i, word z j, word z k, word z l) = CQR (word x i) (word x j) (word x k) (word x l) ∧
  ∀ m, m < 16 → m ≠ i → m ≠ j → m ≠ k → m ≠ l → word z m = word x m

/-- `z` comes from `x` by the quarterrounds on the listed index sets, in order. -/
def StateQRs : List (Nat × Nat × Nat × Nat) → BitVec 512 → BitVec 512 → Prop
  | [], x, z => z = x
  | (i, j, k, l) :: rest, x, z => ∃ y, StateQR x i j k l y ∧ StateQRs rest y z

/-- The column sets, then the diagonal sets (43_chacha.md R142). -/
def roundSets : List (Nat × Nat × Nat × Nat) :=
  [(0, 4, 8, 12), (1, 5, 9, 13), (2, 6, 10, 14), (3, 7, 11, 15),
   (0, 5, 10, 15), (1, 6, 11, 12), (2, 7, 8, 13), (3, 4, 9, 14)]

/-- `out` is `chacha_hash(x, rounds)` (43_chacha.md R142). -/
def ChachaHash (x : BitVec 512) (rounds : Nat) (out : BitVec 512) : Prop :=
  ∃ z : Nat → BitVec 512, z 0 = x ∧
    (∀ m, m < rounds / 2 → StateQRs roundSets (z m) (z (m + 1))) ∧
    (∀ i, i < 16 → word out i = swap32 (word (z (rounds / 2)) i + word x i))

/-- Words 0 to 11 of `chacha_state`: the constants and the key (43_chacha.md R143). -/
def ChachaRows (key : BitVec 256) (x : BitVec 512) : Prop :=
  word x 0 = 0x61707865#32 ∧ word x 1 = 0x3320646E#32 ∧ word x 2 = 0x79622D32#32 ∧ word x 3 = 0x6B206574#32 ∧
  ∀ m, m < 8 → word x (4 + m) = swap32 (key.extractLsb' (224 - 32 * m) 32)

/-- `out` is `chacha_expansion` in the IETF variant (43_chacha.md R143). -/
def IetfBlock (key : BitVec 256) (nonce : BitVec 96) (ctr : BitVec 32) (rounds : Nat) (out : BitVec 512) : Prop :=
  ∃ x, ChachaRows key x ∧ word x 12 = ctr ∧
    (∀ m, m < 3 → word x (13 + m) = swap32 (nonce.extractLsb' (64 - 32 * m) 32)) ∧ ChachaHash x rounds out

/-- `out` is `chacha_expansion` in the DJB variant, on an instance with the order `o` of the counter words
(43_chacha.md R143). -/
def DjbBlock (o : Config.CtrOrder) (key : BitVec 256) (nonce : BitVec 64) (ctr : BitVec 64) (rounds : Nat)
    (out : BitVec 512) : Prop :=
  ∃ x, ChachaRows key x ∧
    (o = .hiFirst → word x 12 = ctr.extractLsb' 32 32 ∧ word x 13 = ctr.extractLsb' 0 32) ∧
    (o = .loFirst → word x 12 = ctr.extractLsb' 0 32 ∧ word x 13 = ctr.extractLsb' 32 32) ∧
    (∀ m, m < 2 → word x (14 + m) = swap32 (nonce.extractLsb' (32 - 32 * m) 32)) ∧ ChachaHash x rounds out

/-- `out` is `chacha_xcrypt` in the IETF variant: the counter of block `c` is `ctr0 + c` modulo `2^32`
(43_chacha.md R144). -/
def IetfXcrypt (key : BitVec 256) (nonce : BitVec 96) (ctr0 : BitVec 32) (rounds : Nat) {w : Nat}
    (t out : BitVec w) : Prop :=
  ∃ ks : Nat → BitVec 512,
    (∀ c, 512 * c < w → IetfBlock key nonce (ctr0 + BitVec.ofNat 32 c) rounds (ks c)) ∧ KeystreamXor ks t out

/-- `out` is `chacha_xcrypt` in the DJB variant: the counter of block `c` is `ctr0 + c` modulo `2^64`
(43_chacha.md R144). -/
def DjbXcrypt (o : Config.CtrOrder) (key : BitVec 256) (nonce : BitVec 64) (ctr0 : BitVec 64) (rounds : Nat)
    {w : Nat} (t out : BitVec w) : Prop :=
  ∃ ks : Nat → BitVec 512,
    (∀ c, 512 * c < w → DjbBlock o key nonce (ctr0 + BitVec.ofNat 64 c) rounds (ks c)) ∧ KeystreamXor ks t out

/-! ### The order of the checks (60_exceptions.md R177) -/

/-- An operand at fixed widths fails: its tag is not allowed, or it holds a bit at or above the tag. -/
def badOperand (num tag cap : Nat) (allowed : List Nat) : Bool :=
  !allowed.contains tag || (decide (tag < cap) && decide (2 ^ tag ≤ num))

def badKey (s : State) (allowed : List Nat) : Bool × Word32 :=
  (badOperand s.key.toNat s.keyW.toNat 256 allowed, 0x00040306#32)

def badNonce (s : State) (allowed : List Nat) : Bool × Word32 :=
  (badOperand s.nonce.toNat s.nonceW.toNat 128 allowed, 0x00050306#32)

def badCtr (s : State) (allowed : List Nat) : Bool × Word32 :=
  (badOperand s.ctr.toNat s.ctrW.toNat 64 allowed, 0x00060306#32)

def badAux (s : State) (allowed : List Nat) : Bool × Word32 :=
  (badOperand s.aux.toNat s.auxW.toNat 32 allowed, 0x00070306#32)

def badDin (s : State) (allowed : List Nat) : Bool × Word32 :=
  (badOperand s.din.toNat s.dinW.toNat s.par.dmax allowed, 0x00080306#32)

/-- The three checks of `DIN` at any width of at least `least` bits. -/
def badText (s : State) (least : Nat) : List (Bool × Word32) :=
  [(decide (s.par.dmax < s.dinW.toNat), 0x00080406#32),
   (decide (s.dinW.toNat < least), 0x00080306#32),
   (decide (s.dinW.toNat < s.par.dmax) && decide (2 ^ s.dinW.toNat ≤ s.din.toNat), 0x00080306#32)]

def badFealRounds (s : State) (n : Nat) : List (Bool × Word32) :=
  [(decide (n % 2 = 1) || decide (n < 2), 0x00020206#32), (decide (s.par.nmax < n), 0x00020406#32)]

def badStreamRounds (n : Nat) : Bool × Word32 :=
  (!(decide (n = 8) || decide (n = 12) || decide (n = 20)), 0x00020206#32)

/-- nw and cw (30_encoding.md R75). -/
def nw : Variant → Nat
  | .djb => 64
  | .ietf => 96

def cw : Variant → Nat
  | .djb => 64
  | .ietf => 32

/-- Steps 2 and 3 of 60_exceptions.md R177 for each command: the checks in their order, each with the word a failure
leaves in `STATUS` (R176). -/
def checks (s : State) : Instr → List (Bool × Word32)
  | .fealS0 => [badAux s [8], badDin s [8]]
  | .fealS1 => [badAux s [8], badDin s [8]]
  | .fealF => [badAux s [16], badDin s [32]]
  | .fealFk => [badAux s [32], badDin s [32]]
  | .fealKs n => badFealRounds s n ++ [badKey s [128]]
  | .fealEnc n e => badFealRounds s n ++ badKey s [128] :: (if e then badText s 0 else [badDin s [64]])
  | .fealDec n e => badFealRounds s n ++ badKey s [128] :: (if e then badText s 0 else [badDin s [64]])
  | .salsaQr => [badDin s [128]]
  | .salsaRr => [badDin s [512]]
  | .salsaCr => [badDin s [512]]
  | .salsaDr => [badDin s [512]]
  | .salsaHash n => [badStreamRounds n, badDin s [512]]
  | .salsaExp n => [badStreamRounds n, badKey s [128, 256], badNonce s [128]]
  | .salsaXcrypt n => badStreamRounds n :: badKey s [128, 256] :: badNonce s [64] :: badText s 0
  | .salsaEnc n => badStreamRounds n :: badKey s [128, 256] :: badText s 0
  | .salsaDec n => badStreamRounds n :: badKey s [128, 256] :: badText s 65
  | .chachaQr => [badDin s [128]]
  | .chachaQrs i j k l =>
    [(decide (i = j ∨ i = k ∨ i = l ∨ j = k ∨ j = l ∨ k = l), 0x00090206#32), badDin s [512]]
  | .chachaHash n => [badStreamRounds n, badDin s [512]]
  | .chachaExp n v => [badStreamRounds n, badKey s [256], badNonce s [nw v], badCtr s [cw v]]
  | .chachaXcrypt n v =>
    badStreamRounds n :: badKey s [256] :: badNonce s [nw v] :: badCtr s [cw v] :: badText s 0
  | .chachaEnc n v => badStreamRounds n :: badKey s [256] :: badCtr s [cw v] :: badText s 0
  | .chachaDec n v => badStreamRounds n :: badKey s [256] :: badCtr s [cw v] :: badText s (nw v + 1)

/-- The word the first failing check leaves in `STATUS`, if one fails. -/
def firstError (s : State) (i : Instr) : Option Word32 := ((checks s i).find? Prod.fst).map Prod.snd

/-- Which command reads which operand register (10_state.md R35). -/
def uses (x : OpReg) : Instr → Bool
  | .fealS0 => x == .aux || x == .din
  | .fealS1 => x == .aux || x == .din
  | .fealF => x == .aux || x == .din
  | .fealFk => x == .aux || x == .din
  | .fealKs _ => x == .key
  | .fealEnc _ _ => x == .key || x == .din
  | .fealDec _ _ => x == .key || x == .din
  | .salsaQr => x == .din
  | .salsaRr => x == .din
  | .salsaCr => x == .din
  | .salsaDr => x == .din
  | .salsaHash _ => x == .din
  | .salsaExp _ => x == .key || x == .nonce
  | .salsaXcrypt _ => x == .key || x == .nonce || x == .din
  | .salsaEnc _ => x == .key || x == .din
  | .salsaDec _ => x == .key || x == .din
  | .chachaQr => x == .din
  | .chachaQrs _ _ _ _ => x == .din
  | .chachaHash _ => x == .din
  | .chachaExp _ _ => x == .key || x == .nonce || x == .ctr
  | .chachaXcrypt _ _ => x == .key || x == .nonce || x == .ctr || x == .din
  | .chachaEnc _ _ => x == .key || x == .ctr || x == .din
  | .chachaDec _ _ => x == .key || x == .ctr || x == .din

/-- `s` with the operand register `x` and its width tag replaced. -/
def withOperand (x : OpReg) (num tag : Nat) (s : State) : State :=
  match x with
  | .key => { s with key := BitVec.ofNat 256 num, keyW := BitVec.ofNat 32 tag }
  | .nonce => { s with nonce := BitVec.ofNat 128 num, nonceW := BitVec.ofNat 32 tag }
  | .ctr => { s with ctr := BitVec.ofNat 64 num, ctrW := BitVec.ofNat 32 tag }
  | .aux => { s with aux := BitVec.ofNat 32 num, auxW := BitVec.ofNat 32 tag }
  | .din => { s with din := BitVec.ofNat 65536 num, dinW := BitVec.ofNat 32 tag }

/-! ### Encodings and the register space -/

/-- `RND = w[23:16]`, as the number it spells (30_encoding.md R71). -/
def rndOf (w : Word32) : Nat := w.toNat / 2 ^ 16 % 2 ^ 8

/-- `E = w[0]` (30_encoding.md R74). -/
def flagE (w : Word32) : Bool := w.getLsbD 0

/-- `V = w[1]`: 1 is IETF, 0 is DJB (30_encoding.md R75). -/
def variantOf (w : Word32) : Variant := if w.getLsbD 1 then .ietf else .djb

/-- The four-bit index `w[lo + 3 : lo]` (30_encoding.md R76). -/
def indexOf (w : Word32) (lo : Nat) : Fin 16 := Fin.ofNat 16 (w.toNat / 2 ^ lo)

/-- A row of the opcode table: the words it matches, and the command such a word is. -/
structure OpcodeRow where
  pattern : Word32
  mask : Word32
  command : Word32 → Instr

/-- The word matches the row. -/
def OpcodeRow.Matches (r : OpcodeRow) (w : Word32) : Bool := w &&& r.mask == r.pattern

/-- The 23 rows of the opcode table: the command of each `OPC` (30_encoding.md R78), the `match` and `mask` of its
format (R72 to R76), and its fields (R84). -/
def opcodeTable : List OpcodeRow :=
  [⟨0x10000000#32, 0xFFFFFFFF#32, fun _ => .fealS0⟩,
   ⟨0x11000000#32, 0xFFFFFFFF#32, fun _ => .fealS1⟩,
   ⟨0x12000000#32, 0xFFFFFFFF#32, fun _ => .fealF⟩,
   ⟨0x13000000#32, 0xFFFFFFFF#32, fun _ => .fealFk⟩,
   ⟨0x14000000#32, 0xFF00FFFF#32, fun w => .fealKs (rndOf w)⟩,
   ⟨0x15000000#32, 0xFF00FFFE#32, fun w => .fealEnc (rndOf w) (flagE w)⟩,
   ⟨0x16000000#32, 0xFF00FFFE#32, fun w => .fealDec (rndOf w) (flagE w)⟩,
   ⟨0x20000000#32, 0xFFFFFFFF#32, fun _ => .salsaQr⟩,
   ⟨0x21000000#32, 0xFFFFFFFF#32, fun _ => .salsaRr⟩,
   ⟨0x22000000#32, 0xFFFFFFFF#32, fun _ => .salsaCr⟩,
   ⟨0x23000000#32, 0xFFFFFFFF#32, fun _ => .salsaDr⟩,
   ⟨0x24000000#32, 0xFF00FFFF#32, fun w => .salsaHash (rndOf w)⟩,
   ⟨0x25000000#32, 0xFF00FFFF#32, fun w => .salsaExp (rndOf w)⟩,
   ⟨0x26000000#32, 0xFF00FFFF#32, fun w => .salsaXcrypt (rndOf w)⟩,
   ⟨0x27000000#32, 0xFF00FFFF#32, fun w => .salsaEnc (rndOf w)⟩,
   ⟨0x28000000#32, 0xFF00FFFF#32, fun w => .salsaDec (rndOf w)⟩,
   ⟨0x30000000#32, 0xFFFFFFFF#32, fun _ => .chachaQr⟩,
   ⟨0x31000000#32, 0xFFFF0000#32, fun w => .chachaQrs (indexOf w 12) (indexOf w 8) (indexOf w 4) (indexOf w 0)⟩,
   ⟨0x32000000#32, 0xFF00FFFF#32, fun w => .chachaHash (rndOf w)⟩,
   ⟨0x33000000#32, 0xFF00FFFD#32, fun w => .chachaExp (rndOf w) (variantOf w)⟩,
   ⟨0x34000000#32, 0xFF00FFFD#32, fun w => .chachaXcrypt (rndOf w) (variantOf w)⟩,
   ⟨0x35000000#32, 0xFF00FFFD#32, fun w => .chachaEnc (rndOf w) (variantOf w)⟩,
   ⟨0x36000000#32, 0xFF00FFFD#32, fun w => .chachaDec (rndOf w) (variantOf w)⟩]

/-- The word's `OPC` is in the opcode map (30_encoding.md R78). -/
def knownOpcode (w : Word32) : Bool := opcodeTable.any fun row => w &&& 0xFF000000#32 == row.pattern

/-- The word matches a row of the opcode table. -/
def legalWord (w : Word32) : Bool := opcodeTable.any fun row => row.Matches w

/-- `addr` is a host-writable word (20_memory.md R51). -/
def Writable (p : Config.Params) (a : Nat) : Prop :=
  a % 4 = 0 ∧ (a = 0x0000 ∨ (0x0008 ≤ a ∧ a ≤ 0x0018) ∨ (0x0020 ≤ a ∧ a ≤ 0x004C) ∨ (0x0050 ≤ a ∧ a ≤ 0x0058) ∨
    (0x4000 ≤ a ∧ a < 0x4000 + p.dmax / 8))

/-- `addr` is a host-readable word: a writable one or a read-only one (20_memory.md R51). -/
def Readable (p : Config.Params) (a : Nat) : Prop :=
  Writable p a ∨ (a % 4 = 0 ∧ (a = 0x0004 ∨ a = 0x001C ∨ a = 0x005C ∨ (0x0400 ≤ a ∧ a ≤ 0x0BFC) ∨
    (0x8000 ≤ a ∧ a < 0x8000 + (p.dmax + 128) / 8)))

/-- What a word written to `CMD` fails with, if it fails: step 1 of 60_exceptions.md R177, then steps 2 and 3. -/
def wordError (s : State) (w : Word32) : Option Word32 :=
  if knownOpcode w = false then some 0x00010106#32
  else if legalWord w = false then some 0x00030106#32
  else match decode w with
    | .ok i => firstError s i
    | .error _ => none

/-- The value `v` is the word that a read of the byte address `a` gives (20_memory.md R51, R52, R55). -/
def MappedWord (s : State) (a : Nat) (v : Word32) : Prop :=
  (a = 0x0000 ∧ v = s.cmd) ∨ (a = 0x0004 ∧ v = s.status) ∨ (a = 0x0008 ∧ v = s.keyW) ∨ (a = 0x000C ∧ v = s.nonceW) ∨
  (a = 0x0010 ∧ v = s.ctrW) ∨ (a = 0x0014 ∧ v = s.auxW) ∨ (a = 0x0018 ∧ v = s.dinW) ∨ (a = 0x001C ∧ v = s.doutW) ∨
  (∃ j, j < 8 ∧ a = 0x0020 + 4 * j ∧ v.toNat = s.key.toNat / 2 ^ (32 * j) % 2 ^ 32) ∨
  (∃ j, j < 4 ∧ a = 0x0040 + 4 * j ∧ v.toNat = s.nonce.toNat / 2 ^ (32 * j) % 2 ^ 32) ∨
  (∃ j, j < 2 ∧ a = 0x0050 + 4 * j ∧ v.toNat = s.ctr.toNat / 2 ^ (32 * j) % 2 ^ 32) ∨
  (a = 0x0058 ∧ v = s.aux) ∨ (a = 0x005C ∧ v = s.trN) ∨
  (∃ i, i < 256 ∧ a = 0x0400 + 4 * i ∧ v = s.trl[i]?.getD 0#32) ∨
  (∃ i, i < 256 ∧ a = 0x0800 + 4 * i ∧ v = s.trr[i]?.getD 0#32) ∨
  (∃ j, j < s.par.dmax / 32 ∧ a = 0x4000 + 4 * j ∧ v.toNat = s.din.toNat / 2 ^ (32 * j) % 2 ^ 32) ∨
  (∃ j, j < (s.par.dmax + 128) / 32 ∧ a = 0x8000 + 4 * j ∧ v.toNat = s.dout.toNat / 2 ^ (32 * j) % 2 ^ 32)

/-- `y` is `x` with word `j` replaced by `v` (20_memory.md R53, R55). -/
def WordReplaced {c : Nat} (x : BitVec c) (j : Nat) (v : Word32) (y : BitVec c) : Prop :=
  ∀ b, b < c → y.getLsbD b = if b / 32 = j then v.getLsbD (b % 32) else x.getLsbD b

/-- `t` is `s` after a write of `v` to the byte address `a` of a register other than `CMD` (20_memory.md R53). -/
def Stored (s : State) (a : Nat) (v : Word32) (t : State) : Prop :=
  (a = 0x0008 → t = { s with keyW := v }) ∧ (a = 0x000C → t = { s with nonceW := v }) ∧
  (a = 0x0010 → t = { s with ctrW := v }) ∧ (a = 0x0014 → t = { s with auxW := v }) ∧
  (a = 0x0018 → t = { s with dinW := v }) ∧ (a = 0x0058 → t = { s with aux := v }) ∧
  (∀ j, j < 8 → a = 0x0020 + 4 * j → ∃ y, WordReplaced s.key j v y ∧ t = { s with key := y }) ∧
  (∀ j, j < 4 → a = 0x0040 + 4 * j → ∃ y, WordReplaced s.nonce j v y ∧ t = { s with nonce := y }) ∧
  (∀ j, j < 2 → a = 0x0050 + 4 * j → ∃ y, WordReplaced s.ctr j v y ∧ t = { s with ctr := y }) ∧
  (∀ j, j < s.par.dmax / 32 → a = 0x4000 + 4 * j → ∃ y, WordReplaced s.din j v y ∧ t = { s with din := y })

/-- Every register of 10_state.md R36 is 0. -/
def AllZero (s : State) : Prop :=
  s.key = 0#256 ∧ s.keyW = 0#32 ∧ s.nonce = 0#128 ∧ s.nonceW = 0#32 ∧ s.ctr = 0#64 ∧ s.ctrW = 0#32 ∧
  s.aux = 0#32 ∧ s.auxW = 0#32 ∧ s.din = 0#65536 ∧ s.dinW = 0#32 ∧ s.dout = 0#65664 ∧ s.doutW = 0#32 ∧
  s.cmd = 0#32 ∧ s.status = 0#32 ∧ s.trN = 0#32 ∧
  (s.trl = List.replicate 256 0#32 ∧ s.trr = List.replicate 256 0#32)

/-- `t` differs from `s` at most in the model's own fields that stand for the host's side of the bus. -/
def SameRegisters (s t : State) : Prop :=
  t = { s with bus := t.bus, readData := t.readData, inReset := t.inReset }

/-- The two states hold the same operands, on the same instance, with the same draws and unstated results to come
(notes/assumptions/2.md, 6.md). -/
def SameOperands (s t : State) : Prop :=
  s.par = t.par ∧ s.key = t.key ∧ s.keyW = t.keyW ∧ s.nonce = t.nonce ∧ s.nonceW = t.nonceW ∧ s.ctr = t.ctr ∧
  s.ctrW = t.ctrW ∧ s.aux = t.aux ∧ s.auxW = t.auxW ∧ s.din = t.din ∧ s.dinW = t.dinW ∧ s.draws = t.draws ∧
  s.unstated = t.unstated

/-- The command takes a draw from the random port when it succeeds (60_exceptions.md R183). -/
def drawsIv : Instr → Bool
  | .salsaEnc _ => true
  | .chachaEnc _ _ => true
  | _ => false

/-- The command writes the trace window when it succeeds (10_state.md R32). -/
def tracesBlock : Instr → Bool
  | .fealEnc _ _ => true
  | .fealDec _ _ => true
  | _ => false

/-- `s` with the host's next access at the head of its bus, the rest behind it, out of reset. -/
def Issued (s : State) (e : HostEvent) (rest : List HostEvent) : Prop := s.bus = e :: rest ∧ s.inReset = false

end Sys2Proof.Claims

open Sys2Proof Sys2Proof.Machine Sys2Proof.Claims

/-! ### Reset, the host's accesses, the step -/

/-- 10_state.md R36, with the default parameters of 00_scope.md R9. -/
def Obligations.ResetLeavesEveryRegisterZero : Prop := AllZero State.reset

/-- 70_reset_and_hazards.md R191: releasing the reset input clears every register and leaves the parameters. -/
def Obligations.ReleasingResetClearsEveryRegister : Prop :=
  ∀ (s : State) (rest : List HostEvent), s.bus = .resetInput false :: rest → s.inReset = true →
    ∃ t, step s = .next t ∧ AllZero t ∧ t.par = s.par ∧ t.inReset = false ∧ t.bus = rest

/-- 70_reset_and_hazards.md R190: "While it is asserted CORE executes nothing and no bus access is accepted". That a
held-off access is a fault, and that asserting the input keeps the registers, is the model's choice
(notes/assumptions/4.md). -/
def Obligations.NothingIsAcceptedWhileResetIsAsserted : Prop :=
  ∀ (s : State) (rest : List HostEvent),
    (s.bus = .resetInput true :: rest → step s = .next { s with bus := rest, inReset := true }) ∧
    (∀ a size, s.bus = .read a size :: rest → s.inReset = true → step s = .fault (.heldInReset a)) ∧
    (∀ a size v, s.bus = .write a size v :: rest → s.inReset = true → step s = .fault (.heldInReset a))

/-- 60_exceptions.md R184: "between commands it holds its state and does nothing". -/
def Obligations.AnIdleStepHoldsTheState : Prop := ∀ s : State, s.bus = [] → step s = .next s

/-- 30_encoding.md R70: a write to `CMD` stores the word and executes the command the word decodes to. -/
def Obligations.AStepRunsTheDecodedCommand : Prop :=
  ∀ (s : State) (rest : List HostEvent) (w : Word32) (i : Instr), Issued s (.write 0x0000#16 4 w) rest →
    decode w = .ok i → step s = exec i { s with bus := rest, cmd := w }

/-- 30_encoding.md R79, 60_exceptions.md R171: an illegal word changes `CMD` and `STATUS` only; a legal one runs. -/
def Obligations.AnIllegalWordChangesCmdAndStatusOnly : Prop :=
  ∀ (s : State) (rest : List HostEvent) (w : Word32), Issued s (.write 0x0000#16 4 w) rest →
    (knownOpcode w = false → step s = .next { s with bus := rest, cmd := w, status := 0x00010106#32 }) ∧
    (knownOpcode w = true → legalWord w = false →
      step s = .next { s with bus := rest, cmd := w, status := 0x00030106#32 }) ∧
    (legalWord w = true → ∃ i, decode w = .ok i ∧ step s = exec i { s with bus := rest, cmd := w })

/-- 20_memory.md R52, R55: a read of a mapped word returns it and changes no register. The model hands the word over in
its own field `readData` (notes/assumptions/3.md). -/
def Obligations.ABusReadReturnsTheMappedWord : Prop :=
  ∀ (s : State) (rest : List HostEvent) (a : Addr) (size : Nat), Issued s (.read a size) rest →
    (size = 4 → ∀ v, MappedWord s a.toNat v → step s = .next { s with bus := rest, readData := some v }) ∧
    (¬ (size = 4 ∧ Readable s.par a.toNat) → ∃ why, step s = .fault (.busError a why))

/-- 20_memory.md R53, R55: a write replaces one word of one register; a write to `CMD` stores the word and then
executes it. -/
def Obligations.ABusWriteReplacesOneWord : Prop :=
  ∀ (s : State) (rest : List HostEvent) (a : Addr) (size : Nat) (v : Word32), Issued s (.write a size v) rest →
    (size = 4 → Writable s.par a.toNat → a ≠ 0x0000#16 →
      ∃ t, step s = .next t ∧ Stored { s with bus := rest } a.toNat v t) ∧
    (size = 4 → a = 0x0000#16 → step s = runCommand v { s with bus := rest, cmd := v }) ∧
    (¬ (size = 4 ∧ Writable s.par a.toNat) → ∃ why, step s = .fault (.busError a why))

/-- 20_memory.md R54: which accesses the bus refuses, and that each is a fault of the host's step. -/
def Obligations.RefusedAccessesFault : Prop :=
  ∀ (s : State) (rest : List HostEvent) (a : Addr) (size : Nat) (v : Word32),
    (Issued s (.read a size) rest →
      ((∃ t, step s = .next t) ↔ (size = 4 ∧ Readable s.par a.toNat)) ∧
      ((∃ why, step s = .fault (.busError a why)) ↔ ¬ (size = 4 ∧ Readable s.par a.toNat))) ∧
    (Issued s (.write a size v) rest →
      ((∃ t, step s = .next t) ↔ (size = 4 ∧ Writable s.par a.toNat)) ∧
      ((∃ why, step s = .fault (.busError a why)) ↔ ¬ (size = 4 ∧ Writable s.par a.toNat)))

/-- 70_reset_and_hazards.md R190: "Reset is the only event besides a host write that changes state", here as: a step
whose event is neither a write nor a release of the asserted reset input changes no register. That asserting the input
keeps the registers, and that a release while it is not asserted does nothing, is the model's choice
(notes/assumptions/4.md). -/
def Obligations.OnlyAWriteOrAResetChangesARegister : Prop :=
  (∀ s t : State, step s = .next t → (∀ a size v rest, s.bus ≠ .write a size v :: rest) →
    (∀ rest, s.bus = .resetInput false :: rest → s.inReset = false) → SameRegisters s t) ∧
  ∀ (s : State) (rest : List HostEvent), s.bus = .resetInput false :: rest → s.inReset = false →
    step s = .next { s with bus := rest }

/-- A step answers a next state exactly when it is not an access the bus refuses (20_memory.md R54) or the reset input
holds off; that the latter stops is the model's choice (notes/assumptions/4.md). -/
def Obligations.AnAcceptedEventIsASafeStep : Prop :=
  ∀ s : State, (∀ e rest, s.bus = e :: rest → e.accepted s = true) ↔ SafeStep s

/-! ### Encoding -/

/-- 30_encoding.md R71 to R78, R84: no bit of an encoding is dropped. -/
def Obligations.DecodeOfEncodeIsTheCommand : Prop :=
  ∀ i : Instr, i.wellFormed = true → decode (encode i) = .ok i

/-- 30_encoding.md R71 to R78, R84: each legal word is the encoding of the one command it decodes to. -/
def Obligations.EncodeOfDecodeIsTheWord : Prop :=
  ∀ (w : Word32) (i : Instr), decode w = .ok i → i.wellFormed = true ∧ encode i = w

/-- 30_encoding.md R71 to R79, R84: the decoder reads a word that matches a row as that row's command, with every field
from its own bits, and refuses exactly the words that match no row, naming the ground. -/
def Obligations.DecodeAcceptsExactlyTheLegalWords : Prop :=
  ∀ w : Word32,
    (decode w = .error .opc ↔ knownOpcode w = false) ∧
    (decode w = .error .mbz ↔ (knownOpcode w = true ∧ legalWord w = false)) ∧
    ((∃ i, decode w = .ok i) ↔ legalWord w = true) ∧
    (∀ row ∈ opcodeTable, row.Matches w = true → decode w = .ok (row.command w))

/-- The encodings that 30_encoding.md R81 gives as examples. -/
def Obligations.TheExampleWordsDecode : Prop :=
  decode 0x15200000#32 = .ok (.fealEnc 32 false) ∧ decode 0x15200001#32 = .ok (.fealEnc 32 true) ∧
  decode 0x16200000#32 = .ok (.fealDec 32 false) ∧ decode 0x14040000#32 = .ok (.fealKs 4) ∧
  decode 0x12000000#32 = .ok .fealF ∧ decode 0x26140000#32 = .ok (.salsaXcrypt 20) ∧
  decode 0x24080000#32 = .ok (.salsaHash 8) ∧ decode 0x33140002#32 = .ok (.chachaExp 20 .ietf) ∧
  decode 0x330C0000#32 = .ok (.chachaExp 12 .djb) ∧ decode 0x3100278D#32 = .ok (.chachaQrs 2 7 8 13)

/-! ### BitOps -/

/-- 40_bitops.md R90. -/
def Obligations.RotlMovesEveryBit : Prop :=
  ∀ (w : Nat) (x : BitVec w) (s : Nat) (h : s ≤ w),
    (rotl x s h).toNat = (x.toNat * 2 ^ s + x.toNat / 2 ^ (w - s)) % 2 ^ w ∧
    ∀ k, k < w → (rotl x s h).getLsbD ((k + s) % w) = x.getLsbD k

/-- 40_bitops.md R91. The document gives no formula for `rotr`; the rule's own is an inference it marks as derived from
R90. -/
def Obligations.RotrUndoesRotl : Prop :=
  ∀ (w : Nat) (x : BitVec w) (s : Nat) (h : s ≤ w),
    (rotr x s h).toNat = (x.toNat / 2 ^ s + x.toNat * 2 ^ (w - s)) % 2 ^ w ∧
    rotr x s h = rotl x (w - s) (Nat.sub_le w s) ∧ rotr (rotl x s h) s h = x

/-- 40_bitops.md R92. -/
def Obligations.AddModWraps : Prop :=
  ∀ (w : Nat) (a b : BitVec w), (addMod a b).toNat = (a.toNat + b.toNat) % 2 ^ w

/-- 40_bitops.md R93. -/
def Obligations.LeReversesTheBytes : Prop :=
  ∀ (n : Nat) (v : BitVec (8 * n)),
    (∀ j, j < n → (le n v).extractLsb' (8 * (n - j - 1)) 8 = v.extractLsb' (8 * j) 8) ∧ le n (le n v) = v

/-! ### FEAL -/

/-- 41_feal.md R100, R101: what `FEAL.S0` and `FEAL.S1` leave. -/
def Obligations.FealSBoxResults : Prop :=
  ∀ (s : State) (a b : BitVec 8), AuxHolds s b → DinHolds s a →
    exec .fealS0 s = .next (done (S0 a b) s) ∧ exec .fealS1 s = .next (done (S1 a b) s)

/-- 41_feal.md R102: what `FEAL.F` leaves. -/
def Obligations.FealFResult : Prop :=
  ∀ (s : State) (a : Word32) (b : BitVec 16), AuxHolds s b → DinHolds s a →
    exec .fealF s = .next (done (F a b) s)

/-- 41_feal.md R103: what `FEAL.FK` leaves. -/
def Obligations.FealFkResult : Prop :=
  ∀ (s : State) (a b : Word32), AuxHolds s b → DinHolds s a → exec .fealFk s = .next (done (FK a b) s)

/-- 41_feal.md R104: the key schedule has `N + 8` subkeys, and `FEAL.KS` leaves them where `DOUT` has room for them. -/
def Obligations.FealKeyScheduleResult : Prop :=
  (∀ (n : Nat) (k : BitVec 128), n % 2 = 0 → 2 ≤ n →
    (keySchedule k n).length = n + 8 ∧ ∀ j, j < n + 8 → (keySchedule k n)[j]? = some (SK k j)) ∧
  ∀ (s : State) (n : Nat) (k : BitVec 128), FealRounds s n → KeyHolds s k → 16 * (n + 8) ≤ s.par.dmax + 128 →
    ∃ out : BitVec (16 * (n + 8)), (∀ j, j < n + 8 → out.extractLsb' (16 * (n + 7 - j)) 16 = SK k j) ∧
      exec (.fealKs n) s = .next (done out s)

/-- What `FEAL.KS` leaves where `DOUT` has no room for the schedule: the model's choice, a free value
(notes/assumptions/6.md). `DOUT_W` and `STATUS` are as 41_feal.md R111 and 60_exceptions.md R178 say. -/
def Obligations.FealKeyScheduleWithoutRoom : Prop :=
  ∀ (s : State) (n : Nat) (k : BitVec 128), FealRounds s n → KeyHolds s k → s.par.dmax + 128 < 16 * (n + 8) →
    ∃ d : BitVec 65664, d.toNat < 2 ^ (s.par.dmax + 128) ∧
      exec (.fealKs n) s = .next { s with
        dout := d, doutW := BitVec.ofNat 32 (16 * (n + 8)), status := okStatus s, unstated := s.unstated + 1 }

/-- 41_feal.md R105: what `FEAL.ENC` leaves with `E = 0`. -/
def Obligations.FealEncryptBlockResult : Prop :=
  ∀ (s : State) (n : Nat) (k : BitVec 128) (p : Block64), FealRounds s n → KeyHolds s k → DinHolds s p →
    exec (.fealEnc n false) s = .next (traced n (encLR k n p) (done (encBlock k n p) s))

/-- 41_feal.md R106: what `FEAL.DEC` leaves with `E = 0`. -/
def Obligations.FealDecryptBlockResult : Prop :=
  ∀ (s : State) (n : Nat) (k : BitVec 128) (c : Block64), FealRounds s n → KeyHolds s k → DinHolds s c →
    exec (.fealDec n false) s = .next (traced n (decLR k n c) (done (decBlock k n c) s))

/-- 44_ecb.md R161, R162: what `FEAL.ENC` and `FEAL.DEC` leave with `E = 1`, on a text of any width. -/
def Obligations.FealEcbResults : Prop :=
  ∀ (s : State) (n : Nat) (k : BitVec 128) (w : Nat) (t : BitVec w),
    FealRounds s n → KeyHolds s k → DinHolds s t →
    (∃ r, exec (.fealEnc n true) s = .next r ∧ EcbLeaves (encBlock k n) (encLR k n) n t s r) ∧
    (∃ r, exec (.fealDec n true) s = .next r ∧ EcbLeaves (decBlock k n) (decLR k n) n t s r)

/-- 44_ecb.md R164: with `DIN_W = 64` the flag `E` makes no difference. -/
def Obligations.EcbOnOneBlockIsTheBlockCommand : Prop :=
  ∀ (s : State) (n : Nat), s.dinW.toNat = 64 →
    exec (.fealEnc n true) s = exec (.fealEnc n false) s ∧ exec (.fealDec n true) s = exec (.fealDec n false) s

/-- 41_feal.md R114, at command level, both ways round, the trace windows equal too. -/
def Obligations.FealBlockRoundTrip : Prop :=
  ∀ (s s' t : State) (n : Nat) (k : BitVec 128) (p : Block64), FealRounds s n → FealRounds s' n →
    KeyHolds s k → KeyHolds s' k → DinHolds s p → DinHolds s' (t.dout.setWidth 64) →
    (exec (.fealEnc n false) s = .next t →
      ∃ r, exec (.fealDec n false) s' = .next r ∧ r.dout.toNat = p.toNat ∧ r.doutW = 64#32 ∧
        r.trN = t.trN ∧ r.trl = t.trl ∧ r.trr = t.trr) ∧
    (exec (.fealDec n false) s = .next t →
      ∃ r, exec (.fealEnc n false) s' = .next r ∧ r.dout.toNat = p.toNat ∧ r.doutW = 64#32 ∧
        r.trN = t.trN ∧ r.trl = t.trl ∧ r.trr = t.trr)

/-- 44_ecb.md R163, R166: decrypting under ECB what ECB encrypted gives the padded text at the padded width. -/
def Obligations.EcbRoundTripKeepsThePadding : Prop :=
  ∀ (s s' t : State) (n : Nat) (k : BitVec 128) (w : Nat) (text : BitVec w), FealRounds s n → FealRounds s' n →
    KeyHolds s k → KeyHolds s' k → DinHolds s text → exec (.fealEnc n true) s = .next t →
    DinHolds s' (t.dout.setWidth (64 * blocks64 w)) →
    ∃ r, exec (.fealDec n true) s' = .next r ∧ r.dout.toNat = text.toNat ∧ r.doutW.toNat = 64 * blocks64 w

/-! ### Salsa20 -/

/-- 42_salsa20.md R120: what `SALSA.QR` leaves. -/
def Obligations.SalsaQuarterroundResult : Prop :=
  ∀ (s : State) (y0 y1 y2 y3 : Word32), DinHolds s (y0 ++ y1 ++ y2 ++ y3) →
    exec .salsaQr s = .next (done ((QR y0 y1 y2 y3).1 ++ (QR y0 y1 y2 y3).2.1 ++ (QR y0 y1 y2 y3).2.2.1 ++
      (QR y0 y1 y2 y3).2.2.2) s)

/-- 42_salsa20.md R121, R122, R123: what `SALSA.RR`, `SALSA.CR` and `SALSA.DR` leave. -/
def Obligations.SalsaRoundResults : Prop :=
  ∀ (s : State) (x : BitVec 512), DinHolds s x →
    (∃ z, RowRound x z ∧ exec .salsaRr s = .next (done z s)) ∧
    (∃ z, ColumnRound x z ∧ exec .salsaCr s = .next (done z s)) ∧
    (∃ z, DoubleRound x z ∧ exec .salsaDr s = .next (done z s))

/-- 42_salsa20.md R124: what `SALSA.HASH` leaves. -/
def Obligations.SalsaHashResult : Prop :=
  ∀ (s : State) (rounds : Nat) (x : BitVec 512), StreamRounds rounds → DinHolds s x →
    ∃ out, SalsaHash x rounds out ∧ exec (.salsaHash rounds) s = .next (done out s)

/-- 42_salsa20.md R126: what `SALSA.EXP` leaves, for keys of both widths. -/
def Obligations.SalsaExpansionResult : Prop :=
  ∀ (s : State) (rounds : Nat) (key : SalsaKey) (nonce : BitVec 128), StreamRounds rounds → SalsaKeyHolds s key →
    NonceHolds s nonce →
    ∃ out, SalsaHash (matrix nonce key) rounds out ∧ exec (.salsaExp rounds) s = .next (done out s)

/-- 42_salsa20.md R127: what `SALSA.XCRYPT` leaves, for texts of every width. -/
def Obligations.SalsaXcryptResult : Prop :=
  ∀ (s : State) (rounds : Nat) (key : SalsaKey) (iv : BitVec 64) (w : Nat) (text : BitVec w), StreamRounds rounds →
    SalsaKeyHolds s key → NonceHolds s iv → DinHolds s text →
    ∃ out : BitVec w, SalsaXcrypt key iv rounds text out ∧ exec (.salsaXcrypt rounds) s = .next (done out s)

/-- 42_salsa20.md R135: what `SALSA.ENC` leaves, whatever was drawn; where the draw is held is the model's choice
(notes/assumptions/2.md). -/
def Obligations.SalsaEncryptResult : Prop :=
  ∀ (s : State) (rounds : Nat) (key : SalsaKey) (w : Nat) (text : BitVec w), StreamRounds rounds →
    SalsaKeyHolds s key → DinHolds s text →
    ∃ (iv : BitVec 64) (out : BitVec w), iv = Config.rng 64 s.draws ∧ SalsaXcrypt key iv rounds text out ∧
      exec (.salsaEnc rounds) s = .next (done (iv ++ out) { s with draws := s.draws + 1 })

/-- 42_salsa20.md R136: what `SALSA.DEC` leaves. -/
def Obligations.SalsaDecryptResult : Prop :=
  ∀ (s : State) (rounds : Nat) (key : SalsaKey) (iv : BitVec 64) (w : Nat) (text : BitVec w), StreamRounds rounds →
    SalsaKeyHolds s key → DinHolds s (iv ++ text) → 0 < w →
    ∃ out : BitVec w, SalsaXcrypt key iv rounds text out ∧ exec (.salsaDec rounds) s = .next (done out s)

/-! ### ChaCha -/

/-- 43_chacha.md R140: what `CHACHA.QR` leaves. -/
def Obligations.ChachaQuarterroundResult : Prop :=
  ∀ (s : State) (a b c d : Word32), DinHolds s (a ++ b ++ c ++ d) →
    exec .chachaQr s = .next (done ((CQR a b c d).1 ++ (CQR a b c d).2.1 ++ (CQR a b c d).2.2.1 ++
      (CQR a b c d).2.2.2) s)

/-- 43_chacha.md R141: what `CHACHA.QRS` leaves, for pairwise distinct indices in any order. -/
def Obligations.ChachaIndexedQuarterroundResult : Prop :=
  ∀ (s : State) (i j k l : Fin 16) (x : BitVec 512), [i, j, k, l].Nodup → DinHolds s x →
    ∃ z, StateQR x i.val j.val k.val l.val z ∧ exec (.chachaQrs i j k l) s = .next (done z s)

/-- 43_chacha.md R142: what `CHACHA.HASH` leaves. -/
def Obligations.ChachaHashResult : Prop :=
  ∀ (s : State) (rounds : Nat) (x : BitVec 512), StreamRounds rounds → DinHolds s x →
    ∃ out, ChachaHash x rounds out ∧ exec (.chachaHash rounds) s = .next (done out s)

/-- 43_chacha.md R143: what `CHACHA.EXP` leaves, in both variants and for both orders of the DJB counter. -/
def Obligations.ChachaExpansionResult : Prop :=
  ∀ (s : State) (rounds : Nat) (key : BitVec 256), StreamRounds rounds → KeyHolds s key →
    (∀ (nonce : BitVec 96) (ctr : BitVec 32), NonceHolds s nonce → CtrHolds s ctr →
      ∃ out, IetfBlock key nonce ctr rounds out ∧ exec (.chachaExp rounds .ietf) s = .next (done out s)) ∧
    (∀ (nonce : BitVec 64) (ctr : BitVec 64), NonceHolds s nonce → CtrHolds s ctr →
      ∃ out, DjbBlock s.par.djbCtrOrder key nonce ctr rounds out ∧
        exec (.chachaExp rounds .djb) s = .next (done out s))

/-- 43_chacha.md R144: what `CHACHA.XCRYPT` leaves, in both variants, for texts of every width. -/
def Obligations.ChachaXcryptResult : Prop :=
  ∀ (s : State) (rounds : Nat) (key : BitVec 256) (w : Nat) (text : BitVec w), StreamRounds rounds →
    KeyHolds s key → DinHolds s text →
    (∀ (nonce : BitVec 96) (ctr : BitVec 32), NonceHolds s nonce → CtrHolds s ctr →
      ∃ out : BitVec w, IetfXcrypt key nonce ctr rounds text out ∧
        exec (.chachaXcrypt rounds .ietf) s = .next (done out s)) ∧
    (∀ (nonce : BitVec 64) (ctr : BitVec 64), NonceHolds s nonce → CtrHolds s ctr →
      ∃ out : BitVec w, DjbXcrypt s.par.djbCtrOrder key nonce ctr rounds text out ∧
        exec (.chachaXcrypt rounds .djb) s = .next (done out s))

/-- 43_chacha.md R150: what `CHACHA.ENC` leaves in both variants, whatever was drawn; where the draw is held is the
model's choice (notes/assumptions/2.md). -/
def Obligations.ChachaEncryptResult : Prop :=
  ∀ (s : State) (rounds : Nat) (key : BitVec 256) (w : Nat) (text : BitVec w), StreamRounds rounds →
    KeyHolds s key → DinHolds s text →
    (∀ ctr : BitVec 32, CtrHolds s ctr →
      ∃ (n : BitVec 96) (out : BitVec w), n = Config.rng 96 s.draws ∧ IetfXcrypt key n ctr rounds text out ∧
        exec (.chachaEnc rounds .ietf) s = .next (done (n ++ out) { s with draws := s.draws + 1 })) ∧
    (∀ ctr : BitVec 64, CtrHolds s ctr →
      ∃ (n : BitVec 64) (out : BitVec w), n = Config.rng 64 s.draws ∧
        DjbXcrypt s.par.djbCtrOrder key n ctr rounds text out ∧
        exec (.chachaEnc rounds .djb) s = .next (done (n ++ out) { s with draws := s.draws + 1 }))

/-- 43_chacha.md R151: what `CHACHA.DEC` leaves in both variants. -/
def Obligations.ChachaDecryptResult : Prop :=
  ∀ (s : State) (rounds : Nat) (key : BitVec 256) (w : Nat) (text : BitVec w), StreamRounds rounds →
    KeyHolds s key → 0 < w →
    (∀ (n : BitVec 96) (ctr : BitVec 32), DinHolds s (n ++ text) → CtrHolds s ctr →
      ∃ out : BitVec w, IetfXcrypt key n ctr rounds text out ∧
        exec (.chachaDec rounds .ietf) s = .next (done out s)) ∧
    (∀ (n : BitVec 64) (ctr : BitVec 64), DinHolds s (n ++ text) → CtrHolds s ctr →
      ∃ out : BitVec w, DjbXcrypt s.par.djbCtrOrder key n ctr rounds text out ∧
        exec (.chachaDec rounds .djb) s = .next (done out s))

/-! ### The stream ciphers undo themselves -/

/-- 42_salsa20.md R137, 43_chacha.md R152: `xcrypt` twice with the same key, nonce and counter gives the text back. -/
def Obligations.XcryptTwiceReturnsTheText : Prop :=
  ∀ (s t : State) (i : Instr) (w : Nat) (text : BitVec w),
    ((∃ r, i = .salsaXcrypt r) ∨ (∃ r v, i = .chachaXcrypt r v)) → DinHolds s text → exec i s = .next t →
    t.status = okStatus s →
    ∃ r, exec i { t with din := t.dout.setWidth 65536, dinW := t.doutW } = .next r ∧
      r.dout.toNat = text.toNat ∧ r.doutW.toNat = w

/-- 42_salsa20.md R137, 43_chacha.md R152: decrypting what was encrypted under the same key, counter, variant and rounds
gives the text back, whatever was drawn, as long as `DIN` has room for the result and the text is not empty. -/
def Obligations.DecryptReturnsTheEncryptedText : Prop :=
  ∀ (s t : State) (e d : Instr) (w : Nat) (text : BitVec w),
    ((∃ r, e = .salsaEnc r ∧ d = .salsaDec r) ∨ (∃ r v, e = .chachaEnc r v ∧ d = .chachaDec r v)) →
    DinHolds s text → 0 < w → exec e s = .next t → t.status = okStatus s → t.doutW.toNat ≤ s.par.dmax →
    ∃ r, exec d { t with din := t.dout.setWidth 65536, dinW := t.doutW } = .next r ∧
      r.dout.toNat = text.toNat ∧ r.doutW.toNat = w

/-- 42_salsa20.md R137: the keystream of a shorter text is a prefix of that of a longer one. The two results are read
off texts of zeros. -/
def Obligations.TheSalsaKeystreamOfAShorterTextIsAPrefix : Prop :=
  ∀ (s t t' : State) (r v w : Nat), v ≤ w → w ≤ s.par.dmax → s.din = 0#65536 →
    exec (.salsaXcrypt r) { s with dinW := BitVec.ofNat 32 w } = .next t → t.status.getLsbD 0 = true →
    exec (.salsaXcrypt r) { s with dinW := BitVec.ofNat 32 v } = .next t' →
    t'.status.getLsbD 0 = true ∧ t'.dout.toNat = t.dout.toNat / 2 ^ (w - v)

/-- 43_chacha.md R152: "`chacha_quarterround` is a bijection on four words". -/
def Obligations.TheChachaQuarterroundIsABijection : Prop :=
  Function.Bijective fun x : Word32 × Word32 × Word32 × Word32 => chachaQuarterround x.1 x.2.1 x.2.2.1 x.2.2.2

/-! ### What every command does and does not do -/

/-- 60_exceptions.md R170, 10_state.md R30: every command answers a next state, in which exactly one of `OK` and `ERR`
is 1 and the reserved bits of `STATUS` are 0. -/
def Obligations.EveryCommandSucceedsOrFails : Prop :=
  ∀ (i : Instr) (s : State), ∃ t, exec i s = .next t ∧
    t.status.getLsbD 0 = !t.status.getLsbD 1 ∧
    t.status.getLsbD 2 = (s.status.getLsbD 2 || t.status.getLsbD 1) ∧
    t.status.extractLsb' 3 5 = 0#5 ∧ t.status.extractLsb' 24 8 = 0#8

/-- 60_exceptions.md R176, R177: the checks of a word written to `CMD` run in the fixed order, the first that fails
decides `STATUS` and nothing else changes; with none the command succeeds, and only an encryption draws. Two parts rest
on choices of the model: that a draw is counted in `draws` (notes/assumptions/2.md), and that a `FEAL.KS` whose schedule
is wider than `DOUTMAX` succeeds (notes/assumptions/6.md). -/
def Obligations.TheChecksRunInTheFixedOrder : Prop :=
  ∀ (s : State) (rest : List HostEvent) (w : Word32), Issued s (.write 0x0000#16 4 w) rest →
    (∀ st, wordError s w = some st → step s = .next (failed st { s with bus := rest, cmd := w })) ∧
    (wordError s w = none → ∃ i t, decode w = .ok i ∧ step s = .next t ∧ t.status = okStatus s ∧ t.cmd = w ∧
      t.draws = s.draws + (if drawsIv i then 1 else 0))

/-- 10_state.md R20: "no command writes an operand register or a width tag of an operand register"; nor does one write
`CMD`, the parameters or the host's side of the bus. -/
def Obligations.NoCommandWritesAnOperandRegister : Prop :=
  ∀ (i : Instr) (s t : State), exec i s = .next t →
    t = { s with
      dout := t.dout, doutW := t.doutW, status := t.status, trN := t.trN, trl := t.trl, trr := t.trr
      draws := t.draws, unstated := t.unstated }

/-- 10_state.md R27: what a successful command leaves above `DOUT_W` is 0, and a failed one leaves `DOUT` alone. For a
`FEAL.KS` whose schedule is wider than `DOUTMAX` the success is the model's choice (notes/assumptions/6.md). -/
def Obligations.DoutHoldsNothingAboveItsWidth : Prop :=
  ∀ (i : Instr) (s t : State), exec i s = .next t →
    (t.status.getLsbD 0 = true → ∀ b, t.doutW.toNat ≤ b → t.dout.getLsbD b = false) ∧
    (t.status.getLsbD 0 = false → t.dout = s.dout ∧ t.doutW = s.doutW)

/-- 10_state.md R32: "No other command and no failed command writes the trace window." -/
def Obligations.OnlyASuccessfulFealBlockCommandWritesTheTrace : Prop :=
  ∀ (i : Instr) (s t : State), exec i s = .next t → tracesBlock i = false ∨ t.status.getLsbD 0 = false →
    t.trN = s.trN ∧ t.trl = s.trl ∧ t.trr = s.trr

/-- 60_exceptions.md R183: one draw by each successful `SALSA.ENC` and `CHACHA.ENC` and none by anything else, and the
drawn value is the most significant part of the result. The counter of draws is the model's (notes/assumptions/2.md). -/
def Obligations.OnlyASuccessfulEncryptionDraws : Prop :=
  ∀ (i : Instr) (s t : State), exec i s = .next t →
    (drawsIv i = false ∨ t.status.getLsbD 0 = false → t.draws = s.draws) ∧
    (drawsIv i = true → t.status.getLsbD 0 = true → t.draws = s.draws + 1) ∧
    (∀ r, i = .salsaEnc r ∨ i = .chachaEnc r .djb → t.status.getLsbD 0 = true →
      t.dout.toNat / 2 ^ (t.doutW.toNat - 64) = (Config.rng 64 s.draws).toNat) ∧
    (∀ r, i = .chachaEnc r .ietf → t.status.getLsbD 0 = true →
      t.dout.toNat / 2 ^ (t.doutW.toNat - 96) = (Config.rng 96 s.draws).toNat)

/-- 10_state.md R35: a register that a command does not use "may be anything". The statement compares two runs. For
`SALSA.ENC` and `CHACHA.ENC` it holds because the model's two runs take the same draw (notes/assumptions/2.md), and for a
`FEAL.KS` whose schedule is wider than `DOUTMAX` because they take the same free value (notes/assumptions/6.md): the
model's choices, and of the hardware it says nothing where two draws differ. -/
def Obligations.UnusedOperandsDoNotMatter : Prop :=
  ∀ (i : Instr) (s t : State) (x : OpReg) (num tag : Nat), uses x i = false → exec i s = .next t →
    exec i (withOperand x num tag s) = .next (withOperand x num tag t)

/-- 10_state.md R20, R30, 70_reset_and_hazards.md R197: given the same draw, a command's result and error depend on the
operands alone, on nothing that earlier commands left. The statement compares two runs. That they take the same draw, or
the same free value for a `FEAL.KS` whose schedule is wider than `DOUTMAX`, is the model's choice: it is the part of
`SameOperands` that speaks of `draws` and `unstated` (notes/assumptions/2.md, 6.md). -/
def Obligations.NothingPersistsBetweenCommands : Prop :=
  ∀ (i : Instr) (s s' t t' : State), SameOperands s s' → exec i s = .next t → exec i s' = .next t' →
    t.status.getLsbD 0 = t'.status.getLsbD 0 ∧
    t.status.extractLsb' 8 16 = t'.status.extractLsb' 8 16 ∧
    (t.status.getLsbD 0 = true → t.dout = t'.dout ∧ t.doutW = t'.doutW ∧
      (tracesBlock i = true → t.trN = t'.trN ∧ t.trl = t'.trl ∧ t.trr = t'.trr))

/-! ### Every step -/

/-- 70_reset_and_hazards.md R191: the parameters "are fixed properties of an instance"; that they stand in State is the
model's choice (notes/assumptions/1.md). -/
def Obligations.NoStepChangesTheParameters : Prop := ∀ s t : State, step s = .next t → t.par = s.par

/-- 10_state.md R30, 60_exceptions.md R179: `ESTK` is "cleared only by reset". That the event that clears it is the
release of the asserted reset input, not the assertion and not a release while it is not asserted, is the model's choice
(notes/assumptions/4.md). -/
def Obligations.TheStickyErrorStaysUntilReset : Prop :=
  ∀ s t : State, step s = .next t → s.status.getLsbD 2 = true → t.status.getLsbD 2 = false →
    s.inReset = true ∧ (∃ rest, s.bus = .resetInput false :: rest) ∧ AllZero t

/-- The invariant holds after reset (10_state.md R36). -/
def Obligations.TheInvariantHoldsAfterReset : Prop := State.reset.Inv

/-- Every step keeps the invariant: `DIN` and `DOUT` within their capacities and `DOUT` within `DOUT_W` (10_state.md R26,
R27), `STATUS` one of the words it can hold (60_exceptions.md R178), the trace window one a command can leave
(10_state.md R32). How the buffers and the trace window are held is the model's choice (notes/assumptions/5.md, 12.md). -/
def Obligations.EveryStepKeepsTheInvariant : Prop := ∀ s t : State, s.Inv → step s = .next t → t.Inv
end

