-- ==== Sys2Proof/Laws/BitOps.lean ====
section
/-! SUPPORT. The laws of the datapath primitives (40_bitops.md) and of splits and concatenations (00_scope.md R12). -/

namespace Sys2Proof.Machine

theorem addMod_eq_add {w : Nat} (a b : BitVec w) : addMod a b = a + b := by
  apply BitVec.eq_of_toNat_eq
  simp [addMod, BitVec.toNat_add]

theorem rotl_eq_rotateLeft {w s : Nat} (x : BitVec w) (h : s < w) : rotl x s (Nat.le_of_lt h) = x.rotateLeft s := by
  rw [rotl, BitVec.rotateLeft_def, Nat.mod_eq_of_lt h]

theorem concatN_zero {w : Nat} (f : Nat → BitVec w) : concatN f 0 = 0#(w * 0) := rfl

theorem concatN_succ {w : Nat} (f : Nat → BitVec w) (n : Nat) : concatN f (n + 1) = concatN f n ++ f n := rfl

/-- Bit `i` of element `n - 1 - j` from the end: element `n - 1 - k / w` of the concatenation holds bit `k`. -/
theorem getLsbD_concatN {w : Nat} (f : Nat → BitVec w) (n k : Nat) :
    (concatN f n).getLsbD k = (decide (k < w * n) && (f (n - 1 - k / w)).getLsbD (k % w)) := by
  induction n generalizing k with
  | zero => simp [concatN]
  | succ n ih =>
    rw [concatN_succ, BitVec.getLsbD_append]
    by_cases hk : k < w
    · have hw : 0 < w := by omega
      have hlt : k < w * (n + 1) := lt_of_lt_of_le hk (Nat.le_mul_of_pos_right w (Nat.succ_pos n))
      simp [hk, hlt, Nat.div_eq_of_lt hk, Nat.mod_eq_of_lt hk]
    · rw [ih]
      rcases Nat.eq_zero_or_pos w with rfl | hw
      · simp
      · have hge : w ≤ k := by omega
        have hdiv : k / w = (k - w) / w + 1 := by
          rw [Nat.div_eq_sub_div hw hge]
        have hmod : (k - w) % w = k % w := by
          rw [Nat.mod_eq_sub_mod hge]
        have hiff : (k - w < w * n) ↔ (k < w * (n + 1)) := by
          rw [Nat.mul_succ]; omega
        have hidx : n - 1 - (k - w) / w = n + 1 - 1 - ((k - w) / w + 1) := by
          generalize (k - w) / w = q
          omega
        rw [hdiv, hmod, hidx, decide_eq_decide.mpr hiff, if_neg hk]

/-- Chunk `j` of a concatenation is its element `j` (00_scope.md R12). -/
theorem chunk_concatN {w : Nat} (f : Nat → BitVec w) (n j : Nat) (hj : j < n) :
    chunk w n (concatN f n) j = f j := by
  apply BitVec.eq_of_getLsbD_eq
  intro i hi
  have hn : w * (n - 1 - j) + i < w * n := by
    have : w * (n - 1 - j) + w ≤ w * n := by
      rw [← Nat.mul_succ]; exact Nat.mul_le_mul_left w (by omega)
    omega
  have hw : 0 < w := by omega
  have hdiv : (w * (n - 1 - j) + i) / w = n - 1 - j := by
    rw [Nat.mul_add_div hw, Nat.div_eq_of_lt hi, Nat.add_zero]
  have hmod : (w * (n - 1 - j) + i) % w = i := by
    rw [Nat.mul_add_mod, Nat.mod_eq_of_lt hi]
  rw [chunk, BitVec.getLsbD_extractLsb', getLsbD_concatN, hdiv, hmod]
  have : n - 1 - (n - 1 - j) = j := by omega
  simp [hi, hn, this]

/-- Two concatenations of the same number of elements are equal when their elements are. -/
theorem concatN_congr {w : Nat} {f g : Nat → BitVec w} {n : Nat} (h : ∀ j, j < n → f j = g j) :
    concatN f n = concatN g n := by
  induction n with
  | zero => rfl
  | succ n ih =>
    rw [concatN_succ, concatN_succ, h n (Nat.lt_succ_self n), ih fun j hj => h j (Nat.lt_succ_of_lt hj)]

/-- A value is the concatenation of its chunks (00_scope.md R12). -/
theorem concatN_chunk {w n : Nat} (v : BitVec (w * n)) : concatN (chunk w n v) n = v := by
  apply BitVec.eq_of_getLsbD_eq
  intro k hk
  have hw : 0 < w := Nat.pos_of_ne_zero (by rintro rfl; simp at hk)
  have hdiv : k / w < n := Nat.div_lt_of_lt_mul hk
  have hmod : k % w < w := Nat.mod_lt _ hw
  have hidx : n - 1 - (n - 1 - k / w) = k / w := by
    generalize k / w = q at hdiv ⊢
    omega
  rw [getLsbD_concatN, chunk, BitVec.getLsbD_extractLsb', hidx, Nat.div_add_mod]
  simp [hk, hmod]

@[simp] theorem getElem_splitWords (v : BitVec 512) (i : Nat) (h : i < 16) :
    (splitWords v)[i] = chunk 32 16 v i := by
  simp [splitWords]

/-- Splitting a packed state gives the state back (00_scope.md R12, 92_eei_decisions.md D14). -/
@[simp] theorem splitWords_joinWords (x : Block16) : splitWords (joinWords x) = x := by
  apply Vector.ext
  intro i hi
  rw [getElem_splitWords, joinWords]
  exact (chunk_concatN (w := 32) _ 16 i hi).trans (by simp [hi])

/-- Packing a split value gives the value back (00_scope.md R12). -/
@[simp] theorem joinWords_splitWords (v : BitVec 512) : joinWords (splitWords v) = v := by
  have h : ∀ j, j < 16 → (fun j => (splitWords v)[j]?.getD 0#32) j = chunk 32 16 v j := by
    intro j hj; simp [hj]
  exact (concatN_congr (w := 32) h).trans (concatN_chunk (w := 32) (n := 16) v)

@[simp] theorem repeatN_zero {α : Type} (f : α → α) (x : α) : repeatN f 0 x = x := rfl

@[simp] theorem repeatN_succ {α : Type} (f : α → α) (n : Nat) (x : α) : repeatN f (n + 1) x = repeatN f n (f x) := rfl

/-- The loop of the hashes is iteration. -/
theorem repeatN_eq_iterate {α : Type} (f : α → α) (n : Nat) (x : α) : repeatN f n x = f^[n] x := by
  induction n generalizing x with
  | zero => rfl
  | succ n ih => exact ih (f x)

/-- XOR with a keystream that does not read the text undoes itself (42_salsa20.md R137, 43_chacha.md R152). -/
theorem xorKeystream_xorKeystream (block : Nat → BitVec 512) {w : Nat} (t : BitVec w) :
    xorKeystream block (xorKeystream block t) = t := by
  simp [xorKeystream]

end Sys2Proof.Machine
end

