-- ==== Sys2Proof/Laws/State.lean ====
section
/-! SUPPORT. The field lemmas of every update of `State`: what each named operation leaves in each field, so that no
later proof unfolds a record update. -/

namespace Sys2Proof.Machine

section fail
variable (e : CmdError) (s : State)

@[simp] theorem fail_par : (fail e s).par = s.par := rfl
@[simp] theorem fail_key : (fail e s).key = s.key := rfl
@[simp] theorem fail_keyW : (fail e s).keyW = s.keyW := rfl
@[simp] theorem fail_nonce : (fail e s).nonce = s.nonce := rfl
@[simp] theorem fail_nonceW : (fail e s).nonceW = s.nonceW := rfl
@[simp] theorem fail_ctr : (fail e s).ctr = s.ctr := rfl
@[simp] theorem fail_ctrW : (fail e s).ctrW = s.ctrW := rfl
@[simp] theorem fail_aux : (fail e s).aux = s.aux := rfl
@[simp] theorem fail_auxW : (fail e s).auxW = s.auxW := rfl
@[simp] theorem fail_din : (fail e s).din = s.din := rfl
@[simp] theorem fail_dinW : (fail e s).dinW = s.dinW := rfl
@[simp] theorem fail_dout : (fail e s).dout = s.dout := rfl
@[simp] theorem fail_doutW : (fail e s).doutW = s.doutW := rfl
@[simp] theorem fail_cmd : (fail e s).cmd = s.cmd := rfl
@[simp] theorem fail_status : (fail e s).status = failureStatus e := rfl
@[simp] theorem fail_trN : (fail e s).trN = s.trN := rfl
@[simp] theorem fail_trl : (fail e s).trl = s.trl := rfl
@[simp] theorem fail_trr : (fail e s).trr = s.trr := rfl
@[simp] theorem fail_bus : (fail e s).bus = s.bus := rfl
@[simp] theorem fail_readData : (fail e s).readData = s.readData := rfl
@[simp] theorem fail_inReset : (fail e s).inReset = s.inReset := rfl
@[simp] theorem fail_draws : (fail e s).draws = s.draws := rfl
@[simp] theorem fail_unstated : (fail e s).unstated = s.unstated := rfl

end fail

section succeed
variable (v : Value) (s : State)

@[simp] theorem succeed_par : (succeed v s).par = s.par := rfl
@[simp] theorem succeed_key : (succeed v s).key = s.key := rfl
@[simp] theorem succeed_keyW : (succeed v s).keyW = s.keyW := rfl
@[simp] theorem succeed_nonce : (succeed v s).nonce = s.nonce := rfl
@[simp] theorem succeed_nonceW : (succeed v s).nonceW = s.nonceW := rfl
@[simp] theorem succeed_ctr : (succeed v s).ctr = s.ctr := rfl
@[simp] theorem succeed_ctrW : (succeed v s).ctrW = s.ctrW := rfl
@[simp] theorem succeed_aux : (succeed v s).aux = s.aux := rfl
@[simp] theorem succeed_auxW : (succeed v s).auxW = s.auxW := rfl
@[simp] theorem succeed_din : (succeed v s).din = s.din := rfl
@[simp] theorem succeed_dinW : (succeed v s).dinW = s.dinW := rfl
@[simp] theorem succeed_dout : (succeed v s).dout = v.bits.setWidth doutBits := rfl
@[simp] theorem succeed_doutW : (succeed v s).doutW = BitVec.ofNat 32 v.width := rfl
@[simp] theorem succeed_cmd : (succeed v s).cmd = s.cmd := rfl
@[simp] theorem succeed_status : (succeed v s).status = successStatus s.status := rfl
@[simp] theorem succeed_trN : (succeed v s).trN = s.trN := rfl
@[simp] theorem succeed_trl : (succeed v s).trl = s.trl := rfl
@[simp] theorem succeed_trr : (succeed v s).trr = s.trr := rfl
@[simp] theorem succeed_bus : (succeed v s).bus = s.bus := rfl
@[simp] theorem succeed_readData : (succeed v s).readData = s.readData := rfl
@[simp] theorem succeed_inReset : (succeed v s).inReset = s.inReset := rfl
@[simp] theorem succeed_draws : (succeed v s).draws = s.draws := rfl
@[simp] theorem succeed_unstated : (succeed v s).unstated = s.unstated := rfl

end succeed

section succeedUnstated
variable (w : Nat) (s : State)

@[simp] theorem succeedUnstated_par : (succeedUnstated w s).par = s.par := rfl
@[simp] theorem succeedUnstated_key : (succeedUnstated w s).key = s.key := rfl
@[simp] theorem succeedUnstated_keyW : (succeedUnstated w s).keyW = s.keyW := rfl
@[simp] theorem succeedUnstated_nonce : (succeedUnstated w s).nonce = s.nonce := rfl
@[simp] theorem succeedUnstated_nonceW : (succeedUnstated w s).nonceW = s.nonceW := rfl
@[simp] theorem succeedUnstated_ctr : (succeedUnstated w s).ctr = s.ctr := rfl
@[simp] theorem succeedUnstated_ctrW : (succeedUnstated w s).ctrW = s.ctrW := rfl
@[simp] theorem succeedUnstated_aux : (succeedUnstated w s).aux = s.aux := rfl
@[simp] theorem succeedUnstated_auxW : (succeedUnstated w s).auxW = s.auxW := rfl
@[simp] theorem succeedUnstated_din : (succeedUnstated w s).din = s.din := rfl
@[simp] theorem succeedUnstated_dinW : (succeedUnstated w s).dinW = s.dinW := rfl
@[simp] theorem succeedUnstated_dout : (succeedUnstated w s).dout = BitVec.ofNat doutBits ((Config.wideSchedule s.unstated).toNat % 2 ^ s.par.doutmax) := rfl
@[simp] theorem succeedUnstated_doutW : (succeedUnstated w s).doutW = BitVec.ofNat 32 w := rfl
@[simp] theorem succeedUnstated_cmd : (succeedUnstated w s).cmd = s.cmd := rfl
@[simp] theorem succeedUnstated_status : (succeedUnstated w s).status = successStatus s.status := rfl
@[simp] theorem succeedUnstated_trN : (succeedUnstated w s).trN = s.trN := rfl
@[simp] theorem succeedUnstated_trl : (succeedUnstated w s).trl = s.trl := rfl
@[simp] theorem succeedUnstated_trr : (succeedUnstated w s).trr = s.trr := rfl
@[simp] theorem succeedUnstated_bus : (succeedUnstated w s).bus = s.bus := rfl
@[simp] theorem succeedUnstated_readData : (succeedUnstated w s).readData = s.readData := rfl
@[simp] theorem succeedUnstated_inReset : (succeedUnstated w s).inReset = s.inReset := rfl
@[simp] theorem succeedUnstated_draws : (succeedUnstated w s).draws = s.draws := rfl
@[simp] theorem succeedUnstated_unstated : (succeedUnstated w s).unstated = s.unstated + 1 := rfl

end succeedUnstated

section tookDraw
variable (s : State)

@[simp] theorem tookDraw_par : (tookDraw s).par = s.par := rfl
@[simp] theorem tookDraw_key : (tookDraw s).key = s.key := rfl
@[simp] theorem tookDraw_keyW : (tookDraw s).keyW = s.keyW := rfl
@[simp] theorem tookDraw_nonce : (tookDraw s).nonce = s.nonce := rfl
@[simp] theorem tookDraw_nonceW : (tookDraw s).nonceW = s.nonceW := rfl
@[simp] theorem tookDraw_ctr : (tookDraw s).ctr = s.ctr := rfl
@[simp] theorem tookDraw_ctrW : (tookDraw s).ctrW = s.ctrW := rfl
@[simp] theorem tookDraw_aux : (tookDraw s).aux = s.aux := rfl
@[simp] theorem tookDraw_auxW : (tookDraw s).auxW = s.auxW := rfl
@[simp] theorem tookDraw_din : (tookDraw s).din = s.din := rfl
@[simp] theorem tookDraw_dinW : (tookDraw s).dinW = s.dinW := rfl
@[simp] theorem tookDraw_dout : (tookDraw s).dout = s.dout := rfl
@[simp] theorem tookDraw_doutW : (tookDraw s).doutW = s.doutW := rfl
@[simp] theorem tookDraw_cmd : (tookDraw s).cmd = s.cmd := rfl
@[simp] theorem tookDraw_status : (tookDraw s).status = s.status := rfl
@[simp] theorem tookDraw_trN : (tookDraw s).trN = s.trN := rfl
@[simp] theorem tookDraw_trl : (tookDraw s).trl = s.trl := rfl
@[simp] theorem tookDraw_trr : (tookDraw s).trr = s.trr := rfl
@[simp] theorem tookDraw_bus : (tookDraw s).bus = s.bus := rfl
@[simp] theorem tookDraw_readData : (tookDraw s).readData = s.readData := rfl
@[simp] theorem tookDraw_inReset : (tookDraw s).inReset = s.inReset := rfl
@[simp] theorem tookDraw_draws : (tookDraw s).draws = s.draws + 1 := rfl
@[simp] theorem tookDraw_unstated : (tookDraw s).unstated = s.unstated := rfl

end tookDraw

section writeTrace
variable (h : List (Word32 × Word32)) (s : State)

@[simp] theorem writeTrace_par : (writeTrace h s).par = s.par := rfl
@[simp] theorem writeTrace_key : (writeTrace h s).key = s.key := rfl
@[simp] theorem writeTrace_keyW : (writeTrace h s).keyW = s.keyW := rfl
@[simp] theorem writeTrace_nonce : (writeTrace h s).nonce = s.nonce := rfl
@[simp] theorem writeTrace_nonceW : (writeTrace h s).nonceW = s.nonceW := rfl
@[simp] theorem writeTrace_ctr : (writeTrace h s).ctr = s.ctr := rfl
@[simp] theorem writeTrace_ctrW : (writeTrace h s).ctrW = s.ctrW := rfl
@[simp] theorem writeTrace_aux : (writeTrace h s).aux = s.aux := rfl
@[simp] theorem writeTrace_auxW : (writeTrace h s).auxW = s.auxW := rfl
@[simp] theorem writeTrace_din : (writeTrace h s).din = s.din := rfl
@[simp] theorem writeTrace_dinW : (writeTrace h s).dinW = s.dinW := rfl
@[simp] theorem writeTrace_dout : (writeTrace h s).dout = s.dout := rfl
@[simp] theorem writeTrace_doutW : (writeTrace h s).doutW = s.doutW := rfl
@[simp] theorem writeTrace_cmd : (writeTrace h s).cmd = s.cmd := rfl
@[simp] theorem writeTrace_status : (writeTrace h s).status = s.status := rfl
@[simp] theorem writeTrace_trN : (writeTrace h s).trN = BitVec.ofNat 32 h.length := rfl
@[simp] theorem writeTrace_trl : (writeTrace h s).trl = traceEntries (h.map Prod.fst) := rfl
@[simp] theorem writeTrace_trr : (writeTrace h s).trr = traceEntries (h.map Prod.snd) := rfl
@[simp] theorem writeTrace_bus : (writeTrace h s).bus = s.bus := rfl
@[simp] theorem writeTrace_readData : (writeTrace h s).readData = s.readData := rfl
@[simp] theorem writeTrace_inReset : (writeTrace h s).inReset = s.inReset := rfl
@[simp] theorem writeTrace_draws : (writeTrace h s).draws = s.draws := rfl
@[simp] theorem writeTrace_unstated : (writeTrace h s).unstated = s.unstated := rfl

end writeTrace

section presentCommand
variable (s : State) (w : Word32)

@[simp] theorem presentCommand_par : (presentCommand s w).par = s.par := rfl
@[simp] theorem presentCommand_key : (presentCommand s w).key = s.key := rfl
@[simp] theorem presentCommand_keyW : (presentCommand s w).keyW = s.keyW := rfl
@[simp] theorem presentCommand_nonce : (presentCommand s w).nonce = s.nonce := rfl
@[simp] theorem presentCommand_nonceW : (presentCommand s w).nonceW = s.nonceW := rfl
@[simp] theorem presentCommand_ctr : (presentCommand s w).ctr = s.ctr := rfl
@[simp] theorem presentCommand_ctrW : (presentCommand s w).ctrW = s.ctrW := rfl
@[simp] theorem presentCommand_aux : (presentCommand s w).aux = s.aux := rfl
@[simp] theorem presentCommand_auxW : (presentCommand s w).auxW = s.auxW := rfl
@[simp] theorem presentCommand_din : (presentCommand s w).din = s.din := rfl
@[simp] theorem presentCommand_dinW : (presentCommand s w).dinW = s.dinW := rfl
@[simp] theorem presentCommand_dout : (presentCommand s w).dout = s.dout := rfl
@[simp] theorem presentCommand_doutW : (presentCommand s w).doutW = s.doutW := rfl
@[simp] theorem presentCommand_cmd : (presentCommand s w).cmd = s.cmd := rfl
@[simp] theorem presentCommand_status : (presentCommand s w).status = s.status := rfl
@[simp] theorem presentCommand_trN : (presentCommand s w).trN = s.trN := rfl
@[simp] theorem presentCommand_trl : (presentCommand s w).trl = s.trl := rfl
@[simp] theorem presentCommand_trr : (presentCommand s w).trr = s.trr := rfl
@[simp] theorem presentCommand_bus : (presentCommand s w).bus = .write 0x0000#16 4 w :: s.bus := rfl
@[simp] theorem presentCommand_readData : (presentCommand s w).readData = s.readData := rfl
@[simp] theorem presentCommand_inReset : (presentCommand s w).inReset = false := rfl
@[simp] theorem presentCommand_draws : (presentCommand s w).draws = s.draws := rfl
@[simp] theorem presentCommand_unstated : (presentCommand s w).unstated = s.unstated := rfl

end presentCommand

section resetWith
variable (p : Config.Params) (b : List HostEvent) (r : Option Word32) (d u : Nat)

@[simp] theorem resetWith_par : (State.resetWith p b r d u).par = p := rfl
@[simp] theorem resetWith_key : (State.resetWith p b r d u).key = 0 := rfl
@[simp] theorem resetWith_keyW : (State.resetWith p b r d u).keyW = 0 := rfl
@[simp] theorem resetWith_nonce : (State.resetWith p b r d u).nonce = 0 := rfl
@[simp] theorem resetWith_nonceW : (State.resetWith p b r d u).nonceW = 0 := rfl
@[simp] theorem resetWith_ctr : (State.resetWith p b r d u).ctr = 0 := rfl
@[simp] theorem resetWith_ctrW : (State.resetWith p b r d u).ctrW = 0 := rfl
@[simp] theorem resetWith_aux : (State.resetWith p b r d u).aux = 0 := rfl
@[simp] theorem resetWith_auxW : (State.resetWith p b r d u).auxW = 0 := rfl
@[simp] theorem resetWith_din : (State.resetWith p b r d u).din = 0 := rfl
@[simp] theorem resetWith_dinW : (State.resetWith p b r d u).dinW = 0 := rfl
@[simp] theorem resetWith_dout : (State.resetWith p b r d u).dout = 0 := rfl
@[simp] theorem resetWith_doutW : (State.resetWith p b r d u).doutW = 0 := rfl
@[simp] theorem resetWith_cmd : (State.resetWith p b r d u).cmd = 0 := rfl
@[simp] theorem resetWith_status : (State.resetWith p b r d u).status = 0 := rfl
@[simp] theorem resetWith_trN : (State.resetWith p b r d u).trN = 0 := rfl
@[simp] theorem resetWith_trl : (State.resetWith p b r d u).trl = zeroTrace := rfl
@[simp] theorem resetWith_trr : (State.resetWith p b r d u).trr = zeroTrace := rfl
@[simp] theorem resetWith_bus : (State.resetWith p b r d u).bus = b := rfl
@[simp] theorem resetWith_readData : (State.resetWith p b r d u).readData = r := rfl
@[simp] theorem resetWith_inReset : (State.resetWith p b r d u).inReset = false := rfl
@[simp] theorem resetWith_draws : (State.resetWith p b r d u).draws = d := rfl
@[simp] theorem resetWith_unstated : (State.resetWith p b r d u).unstated = u := rfl

end resetWith

end Sys2Proof.Machine
end

