-- ==== Sys2Proof/Laws/Ops.lean ====
section
/-! SUPPORT. One lemma for each shared check and operation that says once everything it can answer. -/

namespace Sys2Proof.Machine

/-! ### The checks -/

theorem checkFits_eq_ok {s : State} {x : OpReg} :
    checkFits s x = .ok () ↔ ¬ (x.tag s < x.capacity s.par ∧ 2 ^ x.tag s ≤ x.num s) := by
  unfold checkFits raiseError; split <;> simp_all

theorem checkFits_eq_error {s : State} {x : OpReg} {e : CmdError} :
    checkFits s x = .error e ↔
      (x.tag s < x.capacity s.par ∧ 2 ^ x.tag s ≤ x.num s) ∧ e = ⟨.width, x.info⟩ := by
  unfold checkFits raiseError; split <;> simp_all [eq_comm]

theorem operand_eq_ok {s : State} {x : OpReg} {w : Nat} {v : BitVec w} :
    operand s x w = .ok v ↔
      x.tag s = w ∧ ¬ (w < x.capacity s.par ∧ 2 ^ w ≤ x.num s) ∧ v = BitVec.ofNat w (x.num s) := by
  unfold operand
  by_cases ht : x.tag s = w
  · subst ht
    rcases hc : checkFits s x with e | u
    · have := checkFits_eq_error.mp hc
      simp [this.1]
    · cases u
      have := checkFits_eq_ok.mp hc
      simp [this, eq_comm]
  · simp [ht, raiseError]

theorem operand_eq_error {s : State} {x : OpReg} {w : Nat} {e : CmdError} :
    operand s x w = .error e ↔
      (x.tag s ≠ w ∨ (w < x.capacity s.par ∧ 2 ^ w ≤ x.num s)) ∧ e = ⟨.width, x.info⟩ := by
  unfold operand
  by_cases ht : x.tag s = w
  · subst ht
    rcases hc : checkFits s x with e | u
    · have := checkFits_eq_error.mp hc
      simp [this.1, this.2, eq_comm]
    · cases u
      have := checkFits_eq_ok.mp hc
      simp [this]
  · simp [ht, raiseError, eq_comm]

theorem salsaKeyOperand_eq_ok {s : State} {k : SalsaKey} :
    salsaKeyOperand s = .ok k ↔
      (s.keyW.toNat = 128 ∧ s.key.toNat < 2 ^ 128 ∧ k = .k128 (BitVec.ofNat 128 s.key.toNat)) ∨
      (s.keyW.toNat = 256 ∧ k = .k256 s.key) := by
  unfold salsaKeyOperand
  by_cases ht : OpReg.key.tag s = 128
  · have ht' : s.keyW.toNat = 128 := ht
    rcases ho : operand s .key 128 with e | v
    · have := operand_eq_error.mp ho
      simp [OpReg.tag, OpReg.capacity, OpReg.num, ht'] at this ⊢
      omega
    · obtain ⟨h1, h2, rfl⟩ := operand_eq_ok.mp ho
      simp [OpReg.tag, OpReg.capacity, OpReg.num, ht'] at h2 ⊢
      simp [h2, eq_comm]
  · have ht' : s.keyW.toNat ≠ 128 := ht
    rcases ho : operand s .key 256 with e | v
    · have := operand_eq_error.mp ho
      simp [OpReg.tag, OpReg.capacity, OpReg.num] at this ht ⊢
      simp [ht, this]
    · obtain ⟨h1, h2, rfl⟩ := operand_eq_ok.mp ho
      simp [OpReg.tag, OpReg.capacity, OpReg.num] at h1 h2 ⊢
      simp [h1, eq_comm]

theorem salsaKeyOperand_eq_error {s : State} {e : CmdError} :
    salsaKeyOperand s = .error e ↔
      ((s.keyW.toNat ≠ 128 ∧ s.keyW.toNat ≠ 256) ∨ (s.keyW.toNat = 128 ∧ 2 ^ 128 ≤ s.key.toNat)) ∧
        e = ⟨.width, .key⟩ := by
  unfold salsaKeyOperand
  by_cases ht : OpReg.key.tag s = 128
  · have ht' : s.keyW.toNat = 128 := ht
    rcases ho : operand s .key 128 with e | v
    · have := operand_eq_error.mp ho
      simp [OpReg.tag, OpReg.capacity, OpReg.num, OpReg.info, ht'] at this ⊢
      simp [this, eq_comm]
    · obtain ⟨h1, h2, rfl⟩ := operand_eq_ok.mp ho
      simp [OpReg.tag, OpReg.capacity, OpReg.num, ht'] at h2 ⊢
      simp [h2]
  · have ht' : s.keyW.toNat ≠ 128 := ht
    rcases ho : operand s .key 256 with e | v
    · have := operand_eq_error.mp ho
      simp [OpReg.tag, OpReg.capacity, OpReg.num, OpReg.info] at this ht ⊢
      simp [ht, this, eq_comm]
    · obtain ⟨h1, h2, rfl⟩ := operand_eq_ok.mp ho
      simp [OpReg.tag, OpReg.capacity, OpReg.num] at h1 h2 ⊢
      simp [h1]

theorem textOperand_eq_ok {s : State} {least : Nat} {v : Value} :
    textOperand s least = .ok v ↔
      s.dinW.toNat ≤ s.par.dmax ∧ least ≤ s.dinW.toNat ∧
        ¬ (s.dinW.toNat < s.par.dmax ∧ 2 ^ s.dinW.toNat ≤ s.din.toNat) ∧
        v = ⟨s.dinW.toNat, BitVec.ofNat _ s.din.toNat⟩ := by
  unfold textOperand
  by_cases h1 : s.par.dmax < s.dinW.toNat
  · simp [OpReg.tag, h1, raiseError]
  by_cases h2 : s.dinW.toNat < least
  · simp [OpReg.tag, h1, h2, raiseError]
  rcases hc : checkFits s .din with e | u
  · have := (checkFits_eq_error.mp hc).1
    simp only [OpReg.tag, OpReg.capacity, OpReg.num] at this
    simp [OpReg.tag, h1, h2, this]
  · cases u
    have := checkFits_eq_ok.mp hc
    simp only [OpReg.tag, OpReg.capacity, OpReg.num] at this
    have h1' := Nat.le_of_not_lt h1
    have h2' := Nat.le_of_not_lt h2
    simp [OpReg.tag, OpReg.num, h1, h2, h1', h2', this, eq_comm]

theorem textOperand_eq_error {s : State} {least : Nat} {e : CmdError} :
    textOperand s least = .error e ↔
      (s.par.dmax < s.dinW.toNat ∧ e = ⟨.capacity, .din⟩) ∨
      (s.dinW.toNat ≤ s.par.dmax ∧
        (s.dinW.toNat < least ∨ (s.dinW.toNat < s.par.dmax ∧ 2 ^ s.dinW.toNat ≤ s.din.toNat)) ∧
        e = ⟨.width, .din⟩) := by
  unfold textOperand
  by_cases h1 : s.par.dmax < s.dinW.toNat
  · simp [OpReg.tag, h1, raiseError, eq_comm]
  have h1' := Nat.le_of_not_lt h1
  by_cases h2 : s.dinW.toNat < least
  · simp [OpReg.tag, h1, h1', h2, raiseError, eq_comm]
  rcases hc : checkFits s .din with e' | u
  · have := checkFits_eq_error.mp hc
    simp only [OpReg.tag, OpReg.capacity, OpReg.num, OpReg.info] at this
    simp [OpReg.tag, h1, h1', h2, this, eq_comm]
  · cases u
    have := checkFits_eq_ok.mp hc
    simp only [OpReg.tag, OpReg.capacity, OpReg.num] at this
    simp [OpReg.tag, h1, h1', h2, this]

theorem checkFealRounds_eq_ok {s : State} {n : Nat} :
    checkFealRounds s n = .ok () ↔ n % 2 = 0 ∧ 2 ≤ n ∧ n ≤ s.par.nmax := by
  unfold checkFealRounds raiseError
  split
  · simp; omega
  · split <;> simp <;> omega

theorem checkFealRounds_eq_error {s : State} {n : Nat} {e : CmdError} :
    checkFealRounds s n = .error e ↔
      ((n % 2 = 1 ∨ n < 2) ∧ e = ⟨.param, .rnd⟩) ∨
      (n % 2 = 0 ∧ 2 ≤ n ∧ s.par.nmax < n ∧ e = ⟨.capacity, .rnd⟩) := by
  unfold checkFealRounds raiseError
  by_cases h1 : n % 2 = 1 ∨ n < 2
  · have : ¬ (n % 2 = 0 ∧ 2 ≤ n) := by omega
    simp only [h1, if_true, Except.error.injEq, true_and]
    constructor
    · rintro rfl; exact .inl rfl
    · rintro (rfl | ⟨h2, h3, -⟩)
      · rfl
      · exact absurd ⟨h2, h3⟩ this
  · have h2 : n % 2 = 0 ∧ 2 ≤ n := by omega
    have h4 : ¬ n < 2 := by omega
    by_cases h3 : s.par.nmax < n <;> simp [h2, h3, h4, eq_comm]

theorem checkStreamRounds_eq_ok {n : Nat} : checkStreamRounds n = .ok () ↔ n = 8 ∨ n = 12 ∨ n = 20 := by
  unfold checkStreamRounds raiseError; split <;> simp_all

theorem checkStreamRounds_eq_error {n : Nat} {e : CmdError} :
    checkStreamRounds n = .error e ↔ ¬ (n = 8 ∨ n = 12 ∨ n = 20) ∧ e = ⟨.param, .rnd⟩ := by
  unfold checkStreamRounds raiseError; split <;> simp_all [eq_comm]

theorem checkIndices_eq_ok {i j k l : Fin 16} :
    checkIndices i j k l = .ok () ↔ i ≠ j ∧ i ≠ k ∧ i ≠ l ∧ j ≠ k ∧ j ≠ l ∧ k ≠ l := by
  unfold checkIndices raiseError
  split
  · rename_i h
    refine ⟨fun h' => by simp at h', ?_⟩
    rintro ⟨h1, h2, h3, h4, h5, h6⟩
    simp [h1, h2, h3, h4, h5, h6] at h
  · simp_all

theorem checkIndices_eq_error {i j k l : Fin 16} {e : CmdError} :
    checkIndices i j k l = .error e ↔
      (i = j ∨ i = k ∨ i = l ∨ j = k ∨ j = l ∨ k = l) ∧ e = ⟨.param, .idx⟩ := by
  unfold checkIndices raiseError; split <;> simp_all [eq_comm]

/-! ### The shape of a command -/

/-- What a command does (00_scope.md R15): the failure its checks raise, or its effect on the operands they give. -/
theorem afterChecks_eq_next {α : Type} {c : Except CmdError α} {k : α → State} {s t : State} :
    afterChecks c k s = .next t ↔ (∃ e, c = .error e ∧ t = fail e s) ∨ (∃ a, c = .ok a ∧ t = k a) := by
  cases c <;> simp [afterChecks, eq_comm]

/-- A command always answers a next state. -/
theorem afterChecks_answers {α : Type} (c : Except CmdError α) (k : α → State) (s : State) :
    ∃ t, afterChecks c k s = .next t := by
  cases c <;> exact ⟨_, rfl⟩

@[simp] theorem afterChecks_ok {α : Type} (a : α) (k : α → State) (s : State) :
    afterChecks (.ok a) k s = .next (k a) := rfl

@[simp] theorem afterChecks_error {α : Type} (e : CmdError) (k : α → State) (s : State) :
    afterChecks (.error e) k s = .next (fail e s) := rfl

/-! ### The bus -/

/-- What one step does when the host has issued something: its oldest event (20_memory.md R59). -/
theorem step_cons {s : State} {e : HostEvent} {rest : List HostEvent} (h : s.bus = e :: rest) :
    step s = hostEvent e { s with bus := rest } := by
  simp [step, hostStep, h]

theorem reach_eq_ok {p : Config.Params} {a : Addr} {n : Nat} {loc : Loc} :
    reach p a n = .ok loc ↔ n = 4 ∧ a.toNat % 4 = 0 ∧ locate p a.toNat = some loc := by
  unfold reach
  by_cases h1 : n = 4
  · by_cases h2 : a.toNat % 4 = 0
    · cases locate p a.toNat <;> simp [h1, h2]
    · simp [h1, h2]
  · simp [h1]

theorem reachForWrite_eq_ok {p : Config.Params} {a : Addr} {n : Nat} {loc : Loc} :
    reachForWrite p a n = .ok loc ↔ reach p a n = .ok loc ∧ loc.readOnly = false := by
  unfold reachForWrite
  cases h : reach p a n with
  | error e => simp
  | ok l =>
    constructor
    · intro h'
      by_cases hl : l.readOnly = true
      · simp [hl] at h'
      · simp only [hl, if_false, Except.ok.injEq, Bool.false_eq_true] at h'
        subst h'
        exact ⟨rfl, by simpa using hl⟩
    · rintro ⟨h', hl⟩
      cases h'
      simp [hl]

/-- The only writable location with a side effect is `CMD` (20_memory.md R53). -/
theorem busWrite_eq {s : State} {a : Addr} {n : Nat} {v : Word32} {loc : Loc}
    (h : reachForWrite s.par a n = .ok loc) (hc : loc ≠ .cmd) :
    busWrite a n v s = .next (loc.write s v) := by
  unfold busWrite; rw [h]
  cases loc <;> first | rfl | exact absurd rfl hc

theorem busWrite_cmd {s : State} {v : Word32} :
    busWrite 0x0000#16 4 v s = runCommand v { s with cmd := v } := rfl

theorem busRead_eq {s : State} {a : Addr} {n : Nat} {loc : Loc} (h : reach s.par a n = .ok loc) :
    busRead a n s = .next { s with readData := some (loc.read s) } := by
  unfold busRead; rw [h]

end Sys2Proof.Machine
end

