-- ==== Sys2Proof/Laws/Checks.lean ====
section
/-! SUPPORT. The checks of each command as a whole: what they give when they all pass. -/

namespace Sys2Proof.Machine

theorem unitOperands_eq_ok {wa wb : Nat} {s : State} {ab : BitVec wa × BitVec wb} :
    unitOperands wa wb s = .ok ab ↔ operand s .aux wb = .ok ab.2 ∧ operand s .din wa = .ok ab.1 := by
  unfold unitOperands
  rcases operand s .aux wb with e | b
  · simp
  rcases operand s .din wa with e | a
  · simp
  · obtain ⟨x, y⟩ := ab; simp [and_comm]

theorem fealKeyOperand_eq_ok {n : Nat} {s : State} {k : BitVec 128} :
    fealKeyOperand n s = .ok k ↔ checkFealRounds s n = .ok () ∧ operand s .key 128 = .ok k := by
  unfold fealKeyOperand
  rcases checkFealRounds s n with e | u <;> simp

theorem fealOperands_single_eq_ok {n : Nat} {s : State} {k : BitVec 128} {v : Value} :
    fealOperands n false s = .ok (k, v) ↔
      fealKeyOperand n s = .ok k ∧ ∃ t : Block64, operand s .din 64 = .ok t ∧ v = ⟨64, t⟩ := by
  unfold fealOperands
  rcases fealKeyOperand n s with e | k'
  · simp
  rcases operand s .din 64 with e | t
  · simp
  · simp [eq_comm]

theorem fealOperands_ecb_eq_ok {n : Nat} {s : State} {k : BitVec 128} {v : Value} :
    fealOperands n true s = .ok (k, v) ↔ fealKeyOperand n s = .ok k ∧ textOperand s 0 = .ok v := by
  unfold fealOperands
  rcases fealKeyOperand n s with e | k'
  · simp
  rcases textOperand s 0 with e | t <;> simp

theorem hashOperands_eq_ok {n : Nat} {s : State} {x : BitVec 512} :
    hashOperands n s = .ok x ↔ checkStreamRounds n = .ok () ∧ operand s .din 512 = .ok x := by
  unfold hashOperands
  rcases checkStreamRounds n with e | u <;> simp

theorem salsaKeyed_eq_ok {n : Nat} {s : State} {k : SalsaKey} :
    salsaKeyed n s = .ok k ↔ checkStreamRounds n = .ok () ∧ salsaKeyOperand s = .ok k := by
  unfold salsaKeyed
  rcases checkStreamRounds n with e | u <;> simp

theorem salsaExpOperands_eq_ok {n : Nat} {s : State} {k : SalsaKey} {x : BitVec 128} :
    salsaExpOperands n s = .ok (k, x) ↔ salsaKeyed n s = .ok k ∧ operand s .nonce 128 = .ok x := by
  unfold salsaExpOperands
  rcases salsaKeyed n s with e | k'
  · simp
  rcases operand s .nonce 128 with e | t <;> simp

theorem salsaTextOperands_eq_ok {n least : Nat} {s : State} {k : SalsaKey} {v : Value} :
    salsaTextOperands n least s = .ok (k, v) ↔ salsaKeyed n s = .ok k ∧ textOperand s least = .ok v := by
  unfold salsaTextOperands
  rcases salsaKeyed n s with e | k'
  · simp
  rcases textOperand s least with e | t <;> simp

theorem salsaXcryptOperands_eq_ok {n : Nat} {s : State} {k : SalsaKey} {iv : BitVec 64} {v : Value} :
    salsaXcryptOperands n s = .ok (k, iv, v) ↔
      salsaKeyed n s = .ok k ∧ operand s .nonce 64 = .ok iv ∧ textOperand s 0 = .ok v := by
  unfold salsaXcryptOperands
  rcases salsaKeyed n s with e | k'
  · simp
  rcases operand s .nonce 64 with e | t
  · simp
  rcases textOperand s 0 with e | t <;> simp

theorem qrsOperands_eq_ok {i j k l : Fin 16} {s : State} {x : BitVec 512} :
    qrsOperands i j k l s = .ok x ↔ checkIndices i j k l = .ok () ∧ operand s .din 512 = .ok x := by
  unfold qrsOperands
  rcases checkIndices i j k l with e | u <;> simp

theorem chachaKeyed_eq_ok {n : Nat} {s : State} {k : BitVec 256} :
    chachaKeyed n s = .ok k ↔ checkStreamRounds n = .ok () ∧ operand s .key 256 = .ok k := by
  unfold chachaKeyed
  rcases checkStreamRounds n with e | u <;> simp

theorem chachaExpOperands_eq_ok {n : Nat} {v : Variant} {s : State} {o : ChachaOperands v} :
    chachaExpOperands n v s = .ok o ↔
      chachaKeyed n s = .ok o.key ∧ operand s .nonce (nonceWidth v) = .ok o.nonce ∧
        operand s .ctr (ctrWidth v) = .ok o.ctr := by
  unfold chachaExpOperands
  rcases chachaKeyed n s with e | k
  · simp
  rcases operand s .nonce (nonceWidth v) with e | x
  · simp
  rcases operand s .ctr (ctrWidth v) with e | c
  · simp
  · obtain ⟨k', x', c'⟩ := o; simp

theorem chachaXcryptOperands_eq_ok {n : Nat} {v : Variant} {s : State} {o : ChachaOperands v} {t : Value} :
    chachaXcryptOperands n v s = .ok (o, t) ↔ chachaExpOperands n v s = .ok o ∧ textOperand s 0 = .ok t := by
  unfold chachaXcryptOperands
  rcases chachaExpOperands n v s with e | o'
  · simp
  rcases textOperand s 0 with e | t' <;> simp

theorem chachaTextOperands_eq_ok {n least : Nat} {v : Variant} {s : State} {o : ChachaTextOperands v} :
    chachaTextOperands n v least s = .ok o ↔
      chachaKeyed n s = .ok o.key ∧ operand s .ctr (ctrWidth v) = .ok o.ctr ∧ textOperand s least = .ok o.text := by
  unfold chachaTextOperands
  rcases chachaKeyed n s with e | k
  · simp
  rcases operand s .ctr (ctrWidth v) with e | c
  · simp
  rcases textOperand s least with e | t
  · simp
  · obtain ⟨k', c', t'⟩ := o; simp

end Sys2Proof.Machine
end

