-- ==== Sys2Proof/Laws/PerInstr.lean ====
section
/-! SUPPORT. The family RoundTrip: what each command's encoding decodes to (30_encoding.md R71 to R78, R84), one lemma
per constructor. -/

namespace Sys2Proof

theorem getLsbD_packFields (o : BitVec 8) (r : Nat) (a : BitVec 16) (i : Nat) :
    (packFields o r a).getLsbD i =
      if i < 16 then a.getLsbD i
      else if i - 16 < 8 then (BitVec.ofNat 8 r).getLsbD (i - 16) else o.getLsbD (i - 16 - 8) := by
  show (o ++ (BitVec.ofNat 8 r ++ a) : BitVec (8 + (8 + 16))).getLsbD i = _
  rw [BitVec.getLsbD_append, BitVec.getLsbD_append]
  by_cases h1 : i < 16
  · have : i < 8 + 16 := by omega
    simp [h1, this]
  · by_cases h2 : i - 16 < 8
    · have : i < 8 + 16 := by omega
      simp [h1, h2, this]
    · have h3 : ¬ i < 8 + 16 := by omega
      have h4 : i - (8 + 16) = i - 16 - 8 := by omega
      rw [if_neg h3, if_neg h1, if_neg h2, h4]

theorem opcField_packFields (o : BitVec 8) (r : Nat) (a : BitVec 16) : opcField (packFields o r a) = o := by
  apply BitVec.eq_of_getLsbD_eq
  intro i hi
  have h1 : ¬ 24 + i < 16 := by omega
  have h2 : ¬ 24 + i - 16 < 8 := by omega
  have h3 : 24 + i - 16 - 8 = i := by omega
  rw [opcField, BitVec.getLsbD_extractLsb', getLsbD_packFields, if_neg h1, if_neg h2, h3]
  simp [hi]

theorem rndField_packFields (o : BitVec 8) (r : Nat) (a : BitVec 16) (h : r < 256) :
    rndField (packFields o r a) = r := by
  have : (packFields o r a).extractLsb' 16 8 = BitVec.ofNat 8 r := by
    apply BitVec.eq_of_getLsbD_eq
    intro i hi
    have h1 : ¬ 16 + i < 16 := by omega
    have h2 : 16 + i - 16 = i := by omega
    rw [BitVec.getLsbD_extractLsb', getLsbD_packFields, if_neg h1, h2, if_pos hi]
    simp [hi]
  rw [rndField, this, BitVec.toNat_ofNat, Nat.mod_eq_of_lt h]

/-- A slice of the low 16 bits of a packed word is the same slice of `ARG`. -/
theorem extract_packFields (o : BitVec 8) (r : Nat) (a : BitVec 16) (lo n : Nat) (h : lo + n ≤ 16) :
    (packFields o r a).extractLsb' lo n = a.extractLsb' lo n := by
  apply BitVec.eq_of_getLsbD_eq
  intro i hi
  have h2 : lo + i < 16 := by omega
  rw [BitVec.getLsbD_extractLsb', BitVec.getLsbD_extractLsb', getLsbD_packFields, if_pos h2]

/-- The field `RND` of a word with no round count is 0. -/
theorem rnd_packFields_zero (o : BitVec 8) (a : BitVec 16) : (packFields o 0 a).extractLsb' 16 8 = 0#8 := by
  apply BitVec.eq_of_toNat_eq
  exact rndField_packFields o 0 a (by decide)

theorem mbzClear_z (o : BitVec 8) : mbzClear .z (packFields o 0 0#16) = true := by
  have : (packFields o 0 0#16).extractLsb' 0 24 = 0#24 := by
    apply BitVec.eq_of_getLsbD_eq
    intro i hi
    have h3 : i - 16 < 8 := by omega
    rw [BitVec.getLsbD_extractLsb', getLsbD_packFields, if_pos (show 0 + i - 16 < 8 by omega)]
    split <;> simp
  simp [mbzClear, this]

theorem mbzClear_n (o : BitVec 8) (r : Nat) : mbzClear .n (packFields o r 0#16) = true := by
  simp [mbzClear, extract_packFields]

theorem mbzClear_ne (o : BitVec 8) (r : Nat) (e : Bool) : mbzClear .ne (packFields o r (argE e)) = true := by
  rw [mbzClear, extract_packFields _ _ _ _ _ (by decide)]
  cases e <;> decide

theorem mbzClear_nv (o : BitVec 8) (r : Nat) (v : Variant) : mbzClear .nv (packFields o r (argV v)) = true := by
  rw [mbzClear, extract_packFields _ _ _ _ _ (by decide), extract_packFields _ _ _ _ _ (by decide)]
  cases v <;> decide

theorem mbzClear_x (o : BitVec 8) (a : BitVec 16) : mbzClear .x (packFields o 0 a) = true := by
  simp [mbzClear, rnd_packFields_zero]

theorem ecbField_packFields (o : BitVec 8) (r : Nat) (e : Bool) : ecbField (packFields o r (argE e)) = e := by
  rw [ecbField, extract_packFields _ _ _ _ _ (by decide)]
  cases e <;> decide

theorem variantField_packFields (o : BitVec 8) (r : Nat) (v : Variant) :
    variantField (packFields o r (argV v)) = v := by
  rw [variantField, extract_packFields _ _ _ _ _ (by decide)]
  cases v <;> decide

theorem getLsbD_argX (i j k l : Fin 16) (n : Nat) :
    (argX i j k l).getLsbD n =
      if n < 12 then (if n < 8 then (if n < 4 then (indexBits l).getLsbD n else (indexBits k).getLsbD (n - 4))
        else (indexBits j).getLsbD (n - 8)) else (indexBits i).getLsbD (n - 12) := by
  show (indexBits i ++ (indexBits j ++ (indexBits k ++ indexBits l)) : BitVec (4 + (4 + (4 + 4)))).getLsbD n = _
  rw [BitVec.getLsbD_append, BitVec.getLsbD_append, BitVec.getLsbD_append]

theorem indexField_packFields (o : BitVec 8) (a : BitVec 16) (lo : Nat) (x : Fin 16) (h : lo + 4 ≤ 16)
    (hx : a.extractLsb' lo 4 = indexBits x) : indexField (packFields o 0 a) lo = x := by
  have : (indexBits x).toFin = x := by
    apply Fin.ext
    simp [indexBits]
  rw [indexField, extract_packFields _ _ _ _ _ h, hx, this]

theorem extract_argX (i j k l : Fin 16) :
    (argX i j k l).extractLsb' 12 4 = indexBits i ∧ (argX i j k l).extractLsb' 8 4 = indexBits j ∧
    (argX i j k l).extractLsb' 4 4 = indexBits k ∧ (argX i j k l).extractLsb' 0 4 = indexBits l := by
  refine ⟨?_, ?_, ?_, ?_⟩ <;> apply BitVec.eq_of_getLsbD_eq <;> intro n hn <;>
    rw [BitVec.getLsbD_extractLsb', getLsbD_argX]
  · have : ¬ 12 + n < 12 := by omega
    simp [hn, this]
  · have h1 : 8 + n < 12 := by omega
    have h2 : ¬ 8 + n < 8 := by omega
    simp [hn, h1, h2]
  · have h1 : 4 + n < 12 := by omega
    have h2 : 4 + n < 8 := by omega
    have h3 : ¬ 4 + n < 4 := by omega
    simp [hn, h1, h2, h3]
  · have h1 : n < 12 := by omega
    have h2 : n < 8 := by omega
    simp [hn, h1, h2]

end Sys2Proof

namespace Sys2Proof.Laws.RoundTrip

open Sys2Proof

/-- The encoding of a well-formed command decodes to it. -/
def Statement (i : Instr) : Prop := i.wellFormed = true → decode (encode i) = .ok i

/-- Decoding a packed word goes by its opcode. -/
theorem decode_packFields (o : BitVec 8) (r : Nat) (a : BitVec 16) :
    (opcField (packFields o r a)).toNat = o.toNat := by rw [opcField_packFields]

theorem fealS0 : Statement .fealS0 := by
  intro _
  rw [decode, encode, decode_packFields]
  simp [decodeRow, mbzClear_z]

theorem fealS1 : Statement .fealS1 := by
  intro _
  rw [decode, encode, decode_packFields]
  simp [decodeRow, mbzClear_z]

theorem fealF : Statement .fealF := by
  intro _
  rw [decode, encode, decode_packFields]
  simp [decodeRow, mbzClear_z]

theorem fealFk : Statement .fealFk := by
  intro _
  rw [decode, encode, decode_packFields]
  simp [decodeRow, mbzClear_z]

theorem fealKs (rnd : Nat) : Statement (.fealKs rnd) := by
  intro h
  have hr : rnd < 256 := by simpa [Instr.wellFormed, Instr.rnd?] using h
  rw [decode, encode, decode_packFields]
  simp [decodeRow, mbzClear_n, rndField_packFields _ _ _ hr]

theorem fealEnc (rnd : Nat) (ecb : Bool) : Statement (.fealEnc rnd ecb) := by
  intro h
  have hr : rnd < 256 := by simpa [Instr.wellFormed, Instr.rnd?] using h
  rw [decode, encode, decode_packFields]
  simp [decodeRow, mbzClear_ne, rndField_packFields _ _ _ hr, ecbField_packFields]

theorem fealDec (rnd : Nat) (ecb : Bool) : Statement (.fealDec rnd ecb) := by
  intro h
  have hr : rnd < 256 := by simpa [Instr.wellFormed, Instr.rnd?] using h
  rw [decode, encode, decode_packFields]
  simp [decodeRow, mbzClear_ne, rndField_packFields _ _ _ hr, ecbField_packFields]

theorem salsaQr : Statement .salsaQr := by
  intro _
  rw [decode, encode, decode_packFields]
  simp [decodeRow, mbzClear_z]

theorem salsaRr : Statement .salsaRr := by
  intro _
  rw [decode, encode, decode_packFields]
  simp [decodeRow, mbzClear_z]

theorem salsaCr : Statement .salsaCr := by
  intro _
  rw [decode, encode, decode_packFields]
  simp [decodeRow, mbzClear_z]

theorem salsaDr : Statement .salsaDr := by
  intro _
  rw [decode, encode, decode_packFields]
  simp [decodeRow, mbzClear_z]

theorem salsaHash (rnd : Nat) : Statement (.salsaHash rnd) := by
  intro h
  have hr : rnd < 256 := by simpa [Instr.wellFormed, Instr.rnd?] using h
  rw [decode, encode, decode_packFields]
  simp [decodeRow, mbzClear_n, rndField_packFields _ _ _ hr]

theorem salsaExp (rnd : Nat) : Statement (.salsaExp rnd) := by
  intro h
  have hr : rnd < 256 := by simpa [Instr.wellFormed, Instr.rnd?] using h
  rw [decode, encode, decode_packFields]
  simp [decodeRow, mbzClear_n, rndField_packFields _ _ _ hr]

theorem salsaXcrypt (rnd : Nat) : Statement (.salsaXcrypt rnd) := by
  intro h
  have hr : rnd < 256 := by simpa [Instr.wellFormed, Instr.rnd?] using h
  rw [decode, encode, decode_packFields]
  simp [decodeRow, mbzClear_n, rndField_packFields _ _ _ hr]

theorem salsaEnc (rnd : Nat) : Statement (.salsaEnc rnd) := by
  intro h
  have hr : rnd < 256 := by simpa [Instr.wellFormed, Instr.rnd?] using h
  rw [decode, encode, decode_packFields]
  simp [decodeRow, mbzClear_n, rndField_packFields _ _ _ hr]

theorem salsaDec (rnd : Nat) : Statement (.salsaDec rnd) := by
  intro h
  have hr : rnd < 256 := by simpa [Instr.wellFormed, Instr.rnd?] using h
  rw [decode, encode, decode_packFields]
  simp [decodeRow, mbzClear_n, rndField_packFields _ _ _ hr]

theorem chachaQr : Statement .chachaQr := by
  intro _
  rw [decode, encode, decode_packFields]
  simp [decodeRow, mbzClear_z]

theorem chachaQrs (i j k l : Fin 16) : Statement (.chachaQrs i j k l) := by
  intro _
  obtain ⟨hi, hj, hk, hl⟩ := extract_argX i j k l
  rw [decode, encode, decode_packFields]
  simp [decodeRow, mbzClear_x, indexField_packFields _ _ _ _ _ hi, indexField_packFields _ _ _ _ _ hj,
    indexField_packFields _ _ _ _ _ hk, indexField_packFields _ _ _ _ _ hl]

theorem chachaHash (rnd : Nat) : Statement (.chachaHash rnd) := by
  intro h
  have hr : rnd < 256 := by simpa [Instr.wellFormed, Instr.rnd?] using h
  rw [decode, encode, decode_packFields]
  simp [decodeRow, mbzClear_n, rndField_packFields _ _ _ hr]

theorem chachaExp (rnd : Nat) (v : Variant) : Statement (.chachaExp rnd v) := by
  intro h
  have hr : rnd < 256 := by simpa [Instr.wellFormed, Instr.rnd?] using h
  rw [decode, encode, decode_packFields]
  simp [decodeRow, mbzClear_nv, rndField_packFields _ _ _ hr, variantField_packFields]

theorem chachaXcrypt (rnd : Nat) (v : Variant) : Statement (.chachaXcrypt rnd v) := by
  intro h
  have hr : rnd < 256 := by simpa [Instr.wellFormed, Instr.rnd?] using h
  rw [decode, encode, decode_packFields]
  simp [decodeRow, mbzClear_nv, rndField_packFields _ _ _ hr, variantField_packFields]

theorem chachaEnc (rnd : Nat) (v : Variant) : Statement (.chachaEnc rnd v) := by
  intro h
  have hr : rnd < 256 := by simpa [Instr.wellFormed, Instr.rnd?] using h
  rw [decode, encode, decode_packFields]
  simp [decodeRow, mbzClear_nv, rndField_packFields _ _ _ hr, variantField_packFields]

theorem chachaDec (rnd : Nat) (v : Variant) : Statement (.chachaDec rnd v) := by
  intro h
  have hr : rnd < 256 := by simpa [Instr.wellFormed, Instr.rnd?] using h
  rw [decode, encode, decode_packFields]
  simp [decodeRow, mbzClear_nv, rndField_packFields _ _ _ hr, variantField_packFields]

end Sys2Proof.Laws.RoundTrip
end

