-- ==== Sys2Proof/Tests/Slice0.lean ====
section
/-! SUPPORT. The model's own tests. Expected words and values are those of 30_encoding.md and 95_test_vectors.md; the
`witness` theorems show a concrete state that meets the hypotheses of a statement. -/

namespace Sys2Proof.Tests

-- One theorem at a time: many kernel evaluations at once ask for more threads than the memory limit gives.
set_option Elab.async false

open Sys2Proof Sys2Proof.Machine Sys2Proof.Claims

/-! ### Helpers -/

/-- The reset state with the operand register `x` loaded with `num` at the width `tag`. -/
abbrev put (x : OpReg) (num tag : Nat) (s : State := State.reset) : State := withOperand x num tag s

/-- `s` with one event of the host issued. -/
def issue (e : HostEvent) (s : State) : State := { s with bus := [e] }

/-- `STATUS`, `DOUT_W` and `DOUT` after a step. -/
def shown (r : Result) : Option (Nat × Nat × Nat) :=
  match r with
  | .next t => some (t.status.toNat, t.doutW.toNat, t.dout.toNat)
  | .fault _ => none
  | .refused _ => none

/-- What `f` reads after a step. -/
def look {α : Type} (f : State → α) (r : Result) : Option α :=
  match r with
  | .next t => some (f t)
  | .fault _ => none
  | .refused _ => none

/-- The reason of a bus fault. -/
def why (r : Result) : Option BusError :=
  match r with
  | .fault (.busError _ e) => some e
  | .fault (.heldInReset _) => none
  | .next _ => none
  | .refused _ => none

def isNext (r : Result) : Bool :=
  match r with
  | .next _ => true
  | .fault _ => false
  | .refused _ => false

/-- The state after a command. -/
def after (i : Instr) (s : State) : State :=
  match exec i s with
  | .next t => t
  | .fault _ => s
  | .refused _ => s

theorem exec_eq_after (i : Instr) (s : State) (h : isNext (exec i s) = true) : exec i s = .next (after i s) := by
  unfold after
  cases hr : exec i s <;> simp [hr, isNext] at h ⊢

/-- 95_test_vectors.md V12: the 128-bit FEAL key. -/
def fealKey : Nat := 0x0123456789ABCDEF0123456789ABCDEF

/-- The 256-bit key of bytes 0, 1, ..., 31 (95_test_vectors.md). -/
def byteKey : Nat := 0x000102030405060708090A0B0C0D0E0F101112131415161718191A1B1C1D1E1F

/-- Sixteen words as one number, word 0 most significant. -/
def words (l : List Nat) : Nat := l.foldl (fun a x => a * 2 ^ 32 + x) 0

/-- An instance with the least capacities of 00_scope.md R9. -/
def smallest : State := { State.reset with par := ⟨0, 0, .loFirst⟩ }

/-! ### WellFormed: `RND` is an 8-bit field, so 256 spells no command -/

theorem test_wellFormed_refuses_a_ninth_bit_of_rnd :
    [.fealKs 256, .fealEnc 256 true, .fealDec 256 false, .salsaHash 256, .salsaExp 256, .salsaXcrypt 256, .salsaEnc 256,
     .salsaDec 256, .chachaHash 256, .chachaExp 256 .djb, .chachaXcrypt 256 .ietf, .chachaEnc 256 .djb, .chachaDec 256 .ietf].all (fun i : Instr => !i.wellFormed) = true := by
  decide

theorem test_wellFormed_takes_every_value_of_rnd :
    [.fealKs 255, .fealEnc 255 true, .fealDec 255 false, .salsaHash 255, .salsaExp 255, .salsaXcrypt 255, .salsaEnc 255,
     .salsaDec 0, .chachaHash 0, .chachaExp 0 .djb, .chachaXcrypt 0 .ietf, .chachaEnc 0 .djb, .chachaDec 0 .ietf].all (fun i : Instr => i.wellFormed) = true := by
  decide

/-! ### Decode: one word of every row, written out from 30_encoding.md R72 to R78 and the rows' own rules -/

theorem test_decode_FEAL_S0 : decode 0x10000000#32 = .ok (.fealS0) ∧ encode (.fealS0) = 0x10000000#32 := by decide

theorem test_decode_FEAL_S1 : decode 0x11000000#32 = .ok (.fealS1) ∧ encode (.fealS1) = 0x11000000#32 := by decide

theorem test_decode_FEAL_F : decode 0x12000000#32 = .ok (.fealF) ∧ encode (.fealF) = 0x12000000#32 := by decide

theorem test_decode_FEAL_FK : decode 0x13000000#32 = .ok (.fealFk) ∧ encode (.fealFk) = 0x13000000#32 := by decide

theorem test_decode_FEAL_KS : decode 0x14040000#32 = .ok (.fealKs 4) ∧ encode (.fealKs 4) = 0x14040000#32 := by decide

theorem test_decode_FEAL_ENC : decode 0x15200001#32 = .ok (.fealEnc 32 true) ∧ encode (.fealEnc 32 true) = 0x15200001#32 := by decide

theorem test_decode_FEAL_DEC : decode 0x16200000#32 = .ok (.fealDec 32 false) ∧ encode (.fealDec 32 false) = 0x16200000#32 := by decide

theorem test_decode_SALSA_QR : decode 0x20000000#32 = .ok (.salsaQr) ∧ encode (.salsaQr) = 0x20000000#32 := by decide

theorem test_decode_SALSA_RR : decode 0x21000000#32 = .ok (.salsaRr) ∧ encode (.salsaRr) = 0x21000000#32 := by decide

theorem test_decode_SALSA_CR : decode 0x22000000#32 = .ok (.salsaCr) ∧ encode (.salsaCr) = 0x22000000#32 := by decide

theorem test_decode_SALSA_DR : decode 0x23000000#32 = .ok (.salsaDr) ∧ encode (.salsaDr) = 0x23000000#32 := by decide

theorem test_decode_SALSA_HASH : decode 0x24080000#32 = .ok (.salsaHash 8) ∧ encode (.salsaHash 8) = 0x24080000#32 := by decide

theorem test_decode_SALSA_EXP : decode 0x25140000#32 = .ok (.salsaExp 20) ∧ encode (.salsaExp 20) = 0x25140000#32 := by decide

theorem test_decode_SALSA_XCRYPT : decode 0x26140000#32 = .ok (.salsaXcrypt 20) ∧ encode (.salsaXcrypt 20) = 0x26140000#32 := by decide

theorem test_decode_SALSA_ENC : decode 0x270C0000#32 = .ok (.salsaEnc 12) ∧ encode (.salsaEnc 12) = 0x270C0000#32 := by decide

theorem test_decode_SALSA_DEC : decode 0x28140000#32 = .ok (.salsaDec 20) ∧ encode (.salsaDec 20) = 0x28140000#32 := by decide

theorem test_decode_CHACHA_QR : decode 0x30000000#32 = .ok (.chachaQr) ∧ encode (.chachaQr) = 0x30000000#32 := by decide

theorem test_decode_CHACHA_QRS : decode 0x3100278D#32 = .ok (.chachaQrs 2 7 8 13) ∧ encode (.chachaQrs 2 7 8 13) = 0x3100278D#32 := by decide

theorem test_decode_CHACHA_HASH : decode 0x32140000#32 = .ok (.chachaHash 20) ∧ encode (.chachaHash 20) = 0x32140000#32 := by decide

theorem test_decode_CHACHA_EXP : decode 0x330C0000#32 = .ok (.chachaExp 12 .djb) ∧ encode (.chachaExp 12 .djb) = 0x330C0000#32 := by decide

theorem test_decode_CHACHA_XCRYPT : decode 0x34140002#32 = .ok (.chachaXcrypt 20 .ietf) ∧ encode (.chachaXcrypt 20 .ietf) = 0x34140002#32 := by decide

theorem test_decode_CHACHA_ENC : decode 0x35140002#32 = .ok (.chachaEnc 20 .ietf) ∧ encode (.chachaEnc 20 .ietf) = 0x35140002#32 := by decide

theorem test_decode_CHACHA_DEC : decode 0x36140000#32 = .ok (.chachaDec 20 .djb) ∧ encode (.chachaDec 20 .djb) = 0x36140000#32 := by decide

theorem test_decode_refuses_unassigned_opcodes :
    [0x00000000#32, 0x0F000000#32, 0x17000000#32, 0x1F200000#32, 0x29140000#32, 0x37140000#32, 0xFFFFFFFF#32].all
      (fun w => decide (decode w = .error .opc)) = true := by decide

theorem test_decode_refuses_mbz_bits :
    [0x10000001#32, 0x10010000#32, 0x14028000#32, 0x15200002#32, 0x24140001#32, 0x33140003#32, 0x33140004#32,
     0x3101048C#32].all (fun w => decide (decode w = .error .mbz)) = true := by decide

theorem test_decodeTableWord : decodeTableWord 32 0x3100278D = some (.chachaQrs 2 7 8 13) ∧
    decodeTableWord 32 0 = none := by decide

/-! ### One step of each command, with the values of 95_test_vectors.md and of the rules' worked examples -/

/-- 41_feal.md R107. -/
theorem test_FEAL_S0 :
    shown (exec (.fealS0) (put .aux 0 8 (put .din 0x40 8))) =
      some (1, 8, 0x01) := by
  decide +kernel

/-- 41_feal.md R107: `AUX >= 256`. -/
theorem test_FEAL_S0_over_wide :
    shown (exec (.fealS0) (put .aux 0x100 8 (put .din 0x40 8))) =
      some (0x00070306, 0, 0) := by
  decide +kernel

/-- 41_feal.md R108. -/
theorem test_FEAL_S1 :
    shown (exec (.fealS1) (put .aux 0xF2 8 (put .din 0x13 8))) =
      some (1, 8, 0x18) := by
  decide +kernel

/-- 41_feal.md R102. -/
theorem test_FEAL_F :
    shown (exec (.fealF) (put .aux 0x89AB 16 (put .din 0x01234567 32))) =
      some (1, 32, 0x57D47577) := by
  decide +kernel

/-- 60_exceptions.md R177: `AUX` before `DIN`. -/
theorem test_FEAL_F_both_tags_wrong :
    shown (exec (.fealF) (put .aux 0 17 (put .din 0 33))) =
      some (0x00070306, 0, 0) := by
  decide +kernel

/-- 41_feal.md R103. -/
theorem test_FEAL_FK :
    shown (exec (.fealFk) (put .aux 0x89ABCDEF 32 (put .din 0x01234567 32))) =
      some (1, 32, 0xDF3BCA36) := by
  decide +kernel

/-- 41_feal.md R111. -/
theorem test_FEAL_KS :
    shown (exec (.fealKs 2) (put .key fealKey 128)) =
      some (1, 160, 0x751971F984E9488688E5523B4EA47ADEFE405E76) := by
  decide +kernel

/-- 41_feal.md R111: the round count before the key. -/
theorem test_FEAL_KS_odd :
    shown (exec (.fealKs 3) (State.reset)) =
      some (0x00020206, 0, 0) := by
  decide +kernel

/-- 41_feal.md R105 (95_test_vectors.md S1). -/
theorem test_FEAL_ENC :
    shown (exec (.fealEnc 32 false) (put .key fealKey 128 (put .din 0 64))) =
      some (1, 64, 0x9C9B54973DF685F8) := by
  decide +kernel

/-- 41_feal.md R113: the trace of a decryption is stored at the document's round index. -/
theorem test_FEAL_DEC :
    look (fun t => [t.dout.toNat, t.trN.toNat, (traceEntry t.trl 0).toNat, (traceEntry t.trr 0).toNat,
        (traceEntry t.trl 32).toNat, (traceEntry t.trr 32).toNat, (traceEntry t.trr 33).toNat])
      (exec (.fealDec 32 false) (put .key fealKey 128 (put .din 0x9C9B54973DF685F8 64))) =
      some [0, 33, 0x196A9AB1, 0xF97F1B21, 0x932DDF16, 0x03E932D4, 0] := by
  decide +kernel

/-- 44_ecb.md R162. -/
theorem test_FEAL_ENC_ecb :
    shown (exec (.fealEnc 32 true) (put .key fealKey 128 (put .din 0x61747461636B206174206461776E21213F 136))) =
      some (1, 192, 0x1717B226F05E531B60A23A7C745FBF22A6C59DB317C6B8CB) := by
  decide +kernel

/-- 44_ecb.md R163. -/
theorem test_FEAL_DEC_ecb :
    shown (exec (.fealDec 32 true) (put .key fealKey 128 (put .din 0x1717B226F05E531B60A23A7C745FBF22A6C59DB317C6B8CB 192))) =
      some (1, 192, 0x61747461636B206174206461776E21213F) := by
  decide +kernel

/-- 42_salsa20.md R128. -/
theorem test_SALSA_QR :
    shown (exec (.salsaQr) (put .din 0x00000001000000000000000000000000 128)) =
      some (1, 128, 0x08008145000000800001020020500000) := by
  decide +kernel

/-- 42_salsa20.md R121. -/
theorem test_SALSA_RR :
    shown (exec (.salsaRr) (put .din (words [1, 0, 0, 0, 1, 0, 0, 0, 1, 0, 0, 0, 1, 0, 0, 0]) 512)) =
      some (1, 512, words [0x08008145, 0x00000080, 0x00010200, 0x20500000, 0x20100001, 0x00048044, 0x00000080, 0x00010000,
        0x00000001, 0x00002000, 0x80040000, 0x00000000, 0x00000001, 0x00000200, 0x00402000, 0x88000100]) := by
  decide +kernel

/-- 42_salsa20.md R122. -/
theorem test_SALSA_CR :
    shown (exec (.salsaCr) (put .din (words [1, 0, 0, 0, 1, 0, 0, 0, 1, 0, 0, 0, 1, 0, 0, 0]) 512)) =
      some (1, 512, words [0x10090288, 0x00000000, 0x00000000, 0x00000000, 0x00000101, 0x00000000, 0x00000000, 0x00000000,
        0x00020401, 0x00000000, 0x00000000, 0x00000000, 0x40A04001, 0x00000000, 0x00000000, 0x00000000]) := by
  decide +kernel

/-- 42_salsa20.md R123. -/
theorem test_SALSA_DR :
    shown (exec (.salsaDr) (put .din (words [1, 0, 0, 0, 1, 0, 0, 0, 1, 0, 0, 0, 1, 0, 0, 0]) 512)) =
      some (1, 512, words [0x1D2286C5, 0x04814408, 0x148D2029, 0xCC862321, 0x30100121, 0x0484C444, 0x00008080, 0x01010000,
        0x00020401, 0x40802000, 0x90050208, 0x00000000, 0x40A04001, 0x40800281, 0x08505024, 0x4A952341]) := by
  decide +kernel

/-- 95_test_vectors.md V22, 8 rounds. -/
theorem test_SALSA_HASH :
    shown (exec (.salsaHash 8) (put .din 0xD39F0D734C3752B70375DE25BFBBEA8831EDB330016AB2DBAFC7A6305610B3CF1FF0203F0F535DA174933071EE37CC244FC9EB4F03519C2FCB1AF4F358766836 512)) =
      some (1, 512, 0xC14F37569F9D26453CBE165AF28CBCAF8BDA26301B31975ED976867149556327B3EA0B1B08C76C13A8B3A5653CE05031757F56CEBA53AFB264956C76163A3536) := by
  decide +kernel

/-- 42_salsa20.md R132: `RND = 10`. -/
theorem test_SALSA_HASH_ten_rounds :
    shown (exec (.salsaHash 10) (State.reset)) =
      some (0x00020206, 0, 0) := by
  decide +kernel

/-- 42_salsa20.md R126 (95_test_vectors.md V23). -/
theorem test_SALSA_EXP_256 :
    shown (exec (.salsaExp 20) (put .key 0x0102030405060708090A0B0C0D0E0F10C9CACBCCCDCECFD0D1D2D3D4D5D6D7D8 256
      (put .nonce 0x65666768696A6B6C6D6E6F7071727374 128))) =
      some (1, 512, 0x45254427290F6BC1FF8B7A06AAE9D9625990B66A1533C841EF31DE22D772287E68C507E1C5991F02664E4CB054F5F6B8B1A0858206489577C0C384ECEA67F64A) := by
  decide +kernel

/-- 42_salsa20.md R126 (95_test_vectors.md V23). -/
theorem test_SALSA_EXP_128 :
    shown (exec (.salsaExp 20) (put .key 0x0102030405060708090A0B0C0D0E0F10 128 (put .nonce 0x65666768696A6B6C6D6E6F7071727374 128))) =
      some (1, 512, 0x27AD2EF81EC852113043FEEF25120DF7F1C83D900A3732B9062FF6FD8F56BBE186556EF6A1A32BEBE75EAB3391D6701D0EE80510978CB78DAB097AB568B6B1C1) := by
  decide +kernel

/-- 95_test_vectors.md: 13 bits, the leading end of the keystream. -/
theorem test_SALSA_XCRYPT :
    shown (exec (.salsaXcrypt 20) (put .key byteKey 256 (put .nonce 0x0001020304050607 64 (put .din 0x1FFF 13)))) =
      some (1, 13, 0x1A2A) := by
  decide +kernel

/-- 95_test_vectors.md: 520 bits, two keystream blocks. -/
theorem test_SALSA_XCRYPT_two_blocks :
    shown (exec (.salsaXcrypt 20) (put .key byteKey 256 (put .nonce 0x0001020304050607 64 (put .din 0 520)))) =
      some (1, 520, 0x2EAD0F5F185729CED672B3A928E454F72FDB44A87B9CD8D219E4EC14AEF9C6BC77BF057F5659D7753848F8D3FE769CA5FDD8057D46326990E5F136E2FCB7BB7CA1) := by
  decide +kernel

/-- 42_salsa20.md R135: 64 + W bits, one draw, and the draw is the top of the result. -/
theorem test_SALSA_ENC :
    look (fun t => (t.status.toNat, t.doutW.toNat, t.draws))
      (exec (.salsaEnc 20) (put .key byteKey 256 (put .din 0x736563726574 48))) = some (1, 112, 1) := by
  decide +kernel

/-- 42_salsa20.md R136. -/
theorem test_SALSA_DEC :
    shown (exec (.salsaDec 20) (put .key byteKey 256 (put .din 0x00010203040506075DC86C2D7D23 112))) =
      some (1, 48, 0x736563726574) := by
  decide +kernel

/-- 42_salsa20.md R136: `DIN_W = 64` fails. -/
theorem test_SALSA_DEC_too_short :
    shown (exec (.salsaDec 20) (put .key byteKey 256 (put .din 0 64))) =
      some (0x00080306, 0, 0) := by
  decide +kernel

/-- 43_chacha.md R145. -/
theorem test_CHACHA_QR :
    shown (exec (.chachaQr) (put .din 0x11111111010203049B8D6F4301234567 128)) =
      some (1, 128, 0xEA2A92F4CB1CF8CE4581472E5881C4BB) := by
  decide +kernel

/-- 43_chacha.md R141. -/
theorem test_CHACHA_QRS :
    shown (exec (.chachaQrs 2 7 8 13) (put .din (words [0x879531E0, 0xC5ECF37D, 0x516461B1, 0xC9A62F8A, 0x44C20EF3, 0x3390AF7F, 0xD9FC690B, 0x2A5F714C,
        0x53372767, 0xB00A5631, 0x974C541A, 0x359E9963, 0x5C971061, 0x3D631689, 0x2098D9D6, 0x91DBD320]) 512)) =
      some (1, 512, words [0x879531E0, 0xC5ECF37D, 0xBDB886DC, 0xC9A62F8A, 0x44C20EF3, 0x3390AF7F, 0xD9FC690B, 0xCFACAFD2,
        0xE46BEA80, 0xB00A5631, 0x974C541A, 0x359E9963, 0x5C971061, 0xCCC07C79, 0x2098D9D6, 0x91DBD320]) := by
  decide +kernel

/-- 43_chacha.md R146. -/
theorem test_CHACHA_QRS_equal_indices :
    shown (exec (.chachaQrs 15 0 7 15) (put .din 0 512)) =
      some (0x00090206, 0, 0) := by
  decide +kernel

/-- 95_test_vectors.md V32, 12 rounds. -/
theorem test_CHACHA_HASH :
    shown (exec (.chachaHash 12) (put .din 0x617078653320646E79622D326B20657403020100070605040B0A09080F0E0D0C13121110171615141B1A19181F1E1D1C00000001090000004A00000000000000 512)) =
      some (1, 512, 0x7F8B136677C73799E3E7777D16E6D8CCC787CE39694990C628E087029CE9190BDA4BE31AC3FE2102A9AD737CF82FA3B06E68B63371C65C827299040ADE1BA8A0) := by
  decide +kernel

/-- 95_test_vectors.md V33. -/
theorem test_CHACHA_EXP_djb_hi_first :
    shown (exec (.chachaExp 20 .djb) (put .key byteKey 256 (put .nonce 0x0001020304050607 64 (put .ctr 1 64)))) =
      some (1, 512, 0x2FCAB2C09A960545C6F57E9269EBC22B4ED12782E66DC4CB612536F5CDBED4BCBA16AF8A92140BF4DED4808AF8EEE82BD0F18FBB64F073C2A547BC2372528F36) := by
  decide +kernel

/-- 95_test_vectors.md V33, the other value of `DJB_CTR_ORDER`. -/
theorem test_CHACHA_EXP_djb_lo_first :
    shown (exec (.chachaExp 20 .djb) (put .key byteKey 256 (put .nonce 0x0001020304050607 64 (put .ctr 1 64 smallest)))) =
      some (1, 512, 0x38008B9A26BC35941E2444177C8ADE6689DE95264986D95889FB60E84629C9BD9A5ACB1CC118BE563EB9B3A4A472F82E09A7E778492B562EF7130E88DFE031C7) := by
  decide +kernel

/-- 95_test_vectors.md: 13 bits. -/
theorem test_CHACHA_XCRYPT :
    shown (exec (.chachaXcrypt 20 .ietf) (put .key byteKey 256 (put .nonce 0x000000090000004A00000000 96 (put .ctr 1 32 (put .din 0x1FFF 13))))) =
      some (1, 13, 0x1DE1) := by
  decide +kernel

/-- 43_chacha.md R144: the counter wraps after `0xFFFFFFFF`. -/
theorem test_CHACHA_XCRYPT_counter_wraps :
    shown (exec (.chachaXcrypt 20 .ietf) (put .key byteKey 256 (put .nonce 0x000000090000004A00000000 96 (put .ctr 0xFFFFFFFF 32 (put .din 0 1024))))) =
      some (1, 1024, 0xFF2941B8D740F6CBB50936BF997EBD5218CB108DC53F41C64841D0218167430CA03B770CA74CCB642A28194D1DEDD2ED13151E25EC5D7FAEB6D060BFB7E6B1468ADC91FD9FF4F0F51B0FAD50FF15D637E40EFDA206CC52C783A74200503C1582CD9833367D0A54D57D3C9E998F490EE69CA34C1FF9E939A75584C52D690A35D4) := by
  decide +kernel

/-- 43_chacha.md R150: nw + W bits and one draw. -/
theorem test_CHACHA_ENC :
    look (fun t => (t.status.toNat, t.doutW.toNat, t.draws, t.ctr.toNat))
      (exec (.chachaEnc 20 .ietf) (put .key byteKey 256 (put .ctr 5 32 (put .din 0x736563726574 48)))) =
      some (1, 144, 1, 5) := by
  decide +kernel

/-- 43_chacha.md R151. -/
theorem test_CHACHA_DEC :
    shown (exec (.chachaDec 20 .ietf) (put .key byteKey 256 (put .ctr 0 32 (put .din 0x000000090000004A00000000F9B9F28FFA80 144)))) =
      some (1, 48, 0x736563726574) := by
  decide +kernel

/-- 43_chacha.md R151: `DIN_W = nw`. -/
theorem test_CHACHA_DEC_too_short :
    shown (exec (.chachaDec 20 .ietf) (put .key byteKey 256 (put .ctr 0 32 (put .din 0 96)))) =
      some (0x00080306, 0, 0) := by
  decide +kernel

/-! ### The step, the bus and reset -/

/-- The first step after reset runs a command word placed where the step takes it. -/
theorem test_step_runs_the_placed_word :
    look (fun t => (t.status.toNat, t.cmd.toNat, t.bus)) (step (State.reset.withFetchWord 32 0x15200000)) =
      some (0x00040306, 0x15200000, []) := by
  decide +kernel

/-- 30_encoding.md R79: the all-zero word is illegal, is stored, and runs nothing. -/
theorem test_step_on_the_zero_word :
    look (fun t => (t.status.toNat, t.cmd.toNat))
      (step (issue (.write 0x0000#16 4 0#32) { State.reset with cmd := 7#32 })) = some (0x00010106, 0) := by
  decide +kernel

/-- 20_memory.md R55: the words of the FEAL key. -/
theorem test_bus_word_order :
    look (fun t => t.readData.map BitVec.toNat) (step (issue (.read 0x0024#16 4) (put .key fealKey 128))) =
      some (some 0x01234567) := by
  decide +kernel

/-- 20_memory.md R53: a write to `DIN` word 1 leaves its other words. -/
theorem test_bus_write_keeps_the_other_words :
    look (fun t => t.din.toNat)
      (step (issue (.write 0x4004#16 4 0xAABBCCDD#32) (put .din 0x111111112222222233333333 96))) =
      some 0x11111111AABBCCDD33333333 := by
  decide +kernel

/-- 20_memory.md R54: the four grounds of a refusal. -/
theorem test_bus_refusals :
    why (step (issue (.read 0x0000#16 1) State.reset)) = some .size ∧
    why (step (issue (.read 0x0002#16 4) State.reset)) = some .misaligned ∧
    why (step (issue (.read 0x0060#16 4) State.reset)) = some .unmapped ∧
    why (step (issue (.write 0x0004#16 4 0#32) State.reset)) = some .readOnly ∧
    why (step (issue (.read 0x4040#16 4) smallest)) = some .unmapped := by
  decide +kernel

/-- 70_reset_and_hazards.md R190: asserting, then releasing, the reset input. -/
theorem test_reset_input :
    look (fun t => (t.inReset, t.key.toNat)) (step (issue (.resetInput true) (put .key 5 128))) = some (true, 5) ∧
    look (fun t => (t.inReset, t.key.toNat, t.keyW.toNat))
      (step (issue (.resetInput false) { put .key 5 128 with inReset := true })) = some (false, 0, 0) := by
  decide +kernel

/-! ### Witnesses: the hypotheses of each statement can be met -/

theorem witness_ReleasingResetClearsEveryRegister :
    ∃ (s : State) (rest : List HostEvent), s.bus = .resetInput false :: rest ∧ s.inReset = true := by
  exact ⟨{ issue (.resetInput false) State.reset with inReset := true }, [], rfl, rfl⟩

theorem witness_NothingIsAcceptedWhileResetIsAsserted :
    (∃ (s : State) (rest : List HostEvent), s.bus = .resetInput true :: rest) ∧
    (∃ (s : State) (rest : List HostEvent) (a : Addr) (size : Nat), s.bus = .read a size :: rest ∧ s.inReset = true) ∧
    (∃ (s : State) (rest : List HostEvent) (a : Addr) (size : Nat) (v : Word32),
      s.bus = .write a size v :: rest ∧ s.inReset = true) := by
  exact ⟨⟨issue (.resetInput true) State.reset, [], rfl⟩,
    ⟨{ issue (.read 0x0004#16 4) State.reset with inReset := true }, [], _, _, rfl, rfl⟩,
    ⟨{ issue (.write 0x0000#16 4 0x10000000#32) State.reset with inReset := true }, [], _, _, _, rfl, rfl⟩⟩

theorem witness_AnIdleStepHoldsTheState :
    ∃ s : State, s.bus = [] := by
  exact ⟨State.reset, rfl⟩

theorem witness_AStepRunsTheDecodedCommand :
    ∃ (s : State) (rest : List HostEvent) (w : Word32) (i : Instr),
      Issued s (.write 0x0000#16 4 w) rest ∧ decode w = .ok i := by
  exact ⟨issue (.write 0x0000#16 4 0x12000000#32) State.reset, [], _, .fealF, ⟨rfl, rfl⟩, by decide⟩

theorem witness_AnIllegalWordChangesCmdAndStatusOnly :
    (∀ w, Issued (issue (.write 0x0000#16 4 w) State.reset) (.write 0x0000#16 4 w) []) ∧
    knownOpcode 0x17000000#32 = false ∧
    (knownOpcode 0x33140001#32 = true ∧ legalWord 0x33140001#32 = false) ∧ legalWord 0x36FF0002#32 = true := by
  exact ⟨fun _ => ⟨rfl, rfl⟩, by decide, by decide, by decide⟩

/-- The addresses at the ends of each row of 20_memory.md R51. -/
theorem witness_ABusReadReturnsTheMappedWord :
    (∀ a size, Issued (issue (.read a size) State.reset) (.read a size) []) ∧
    MappedWord State.reset (0x0000#16 : Addr).toNat 0#32 ∧ MappedWord State.reset (0x001C#16 : Addr).toNat 0#32 ∧
    MappedWord State.reset (0x003C#16 : Addr).toNat 0#32 ∧ MappedWord State.reset (0x004C#16 : Addr).toNat 0#32 ∧
    MappedWord State.reset (0x0054#16 : Addr).toNat 0#32 ∧ MappedWord State.reset (0x005C#16 : Addr).toNat 0#32 ∧
    MappedWord State.reset (0x07FC#16 : Addr).toNat 0#32 ∧ MappedWord State.reset (0x0BFC#16 : Addr).toNat 0#32 ∧
    MappedWord State.reset (0x5FFC#16 : Addr).toNat 0#32 ∧ MappedWord State.reset (0xA00C#16 : Addr).toNat 0#32 ∧
    ¬ (1 = 4 ∧ Readable State.reset.par (0x0000#16 : Addr).toNat) ∧
    ¬ (4 = 4 ∧ Readable State.reset.par (0x0060#16 : Addr).toNat) ∧
    ¬ (4 = 4 ∧ Readable State.reset.par (0x0002#16 : Addr).toNat) ∧
    ¬ (4 = 4 ∧ Readable State.reset.par (0xA010#16 : Addr).toNat) := by
  unfold MappedWord Readable Writable
  refine ⟨fun _ _ => ⟨rfl, rfl⟩, .inl (by decide +kernel), ?_, ?_, ?_, ?_, ?_, ?_, ?_, ?_, ?_, by decide, by decide,
    by decide, by decide⟩
  · exact .inr (.inr (.inr (.inr (.inr (.inr (.inr (.inl (by decide +kernel))))))))
  · exact .inr (.inr (.inr (.inr (.inr (.inr (.inr (.inr (.inl ⟨7, by decide +kernel⟩))))))))
  · exact .inr (.inr (.inr (.inr (.inr (.inr (.inr (.inr (.inr (.inl ⟨3, by decide +kernel⟩)))))))))
  · exact .inr (.inr (.inr (.inr (.inr (.inr (.inr (.inr (.inr (.inr (.inl ⟨1, by decide +kernel⟩))))))))))
  · exact .inr (.inr (.inr (.inr (.inr (.inr (.inr (.inr (.inr (.inr (.inr (.inr (.inl (by decide +kernel)))))))))))))
  · exact .inr (.inr (.inr (.inr (.inr (.inr (.inr (.inr (.inr (.inr (.inr (.inr (.inr (.inl
      ⟨255, by decide +kernel⟩)))))))))))))
  · exact .inr (.inr (.inr (.inr (.inr (.inr (.inr (.inr (.inr (.inr (.inr (.inr (.inr (.inr (.inl
      ⟨255, by decide +kernel⟩))))))))))))))
  · exact .inr (.inr (.inr (.inr (.inr (.inr (.inr (.inr (.inr (.inr (.inr (.inr (.inr (.inr (.inr (.inl
      ⟨2047, by decide +kernel⟩)))))))))))))))
  · exact .inr (.inr (.inr (.inr (.inr (.inr (.inr (.inr (.inr (.inr (.inr (.inr (.inr (.inr (.inr (.inr
      ⟨2051, by decide +kernel⟩)))))))))))))))

/-- The ends of the writable ranges of 20_memory.md R51, and the addresses beside them. -/
theorem witness_ABusWriteReplacesOneWord :
    (∀ a size v, Issued (issue (.write a size v) State.reset) (.write a size v) []) ∧
    ([0x0008#16, 0x0018#16, 0x0020#16, 0x003C#16, 0x0040#16, 0x004C#16, 0x0050#16, 0x0054#16, 0x0058#16, 0x4000#16,
      0x5FFC#16].all (fun a : Addr => decide (a ≠ 0x0000#16)) = true ∧
    ∀ a ∈ [0x0008, 0x0018, 0x0020, 0x003C, 0x0040, 0x004C, 0x0050, 0x0054, 0x0058, 0x4000, 0x5FFC],
      Writable State.reset.par a) ∧
    (∀ a ∈ [0x0004, 0x001C, 0x0022, 0x005C, 0x0400, 0x0BFC, 0x6000, 0x8000],
      ¬ (4 = 4 ∧ Writable State.reset.par a)) ∧
    ¬ (2 = 4 ∧ Writable State.reset.par 0x0000) := by
  unfold Writable
  exact ⟨fun _ _ _ => ⟨rfl, rfl⟩, by decide, by decide, by decide⟩

theorem witness_RefusedAccessesFault :
    (∃ (s : State) (rest : List HostEvent) (a : Addr) (size : Nat), Issued s (.read a size) rest) ∧
    (∃ (s : State) (rest : List HostEvent) (a : Addr) (size : Nat) (v : Word32), Issued s (.write a size v) rest) := by
  exact ⟨⟨issue (.read 0x001C#16 4) State.reset, [], _, _, rfl, rfl⟩,
    ⟨issue (.write 0x001C#16 4 1#32) State.reset, [], _, _, _, rfl, rfl⟩⟩

/-- Asserting the input, a release while it is not asserted, and a read. -/
theorem witness_OnlyAWriteOrAResetChangesARegister :
    (∀ e ∈ [HostEvent.resetInput true, .resetInput false, .read 0x0004#16 4], ∃ t,
      step (issue e State.reset) = .next t ∧ (∀ a size v rest, (issue e State.reset).bus ≠ .write a size v :: rest) ∧
      (∀ rest, (issue e State.reset).bus = .resetInput false :: rest → (issue e State.reset).inReset = false)) ∧
    ∃ (s : State) (rest : List HostEvent), s.bus = .resetInput false :: rest ∧ s.inReset = false := by
  refine ⟨fun e he => ?_, issue (.resetInput false) State.reset, [], rfl, rfl⟩
  simp only [List.mem_cons, List.not_mem_nil, or_false] at he
  obtain rfl | rfl | rfl := he <;>
  · exact ⟨_, rfl, fun _ _ _ _ h => by simp [issue] at h, fun _ _ => rfl⟩

theorem witness_AnAcceptedEventIsASafeStep :
    (∀ e rest, (issue (.read 0x0004#16 4) State.reset).bus = e :: rest →
      e.accepted (issue (.read 0x0004#16 4) State.reset) = true) := by
  intro e rest h
  simp only [issue, List.cons.injEq] at h
  obtain ⟨rfl, -⟩ := h
  decide +kernel

theorem witness_DecodeOfEncodeIsTheCommand : ∃ i : Instr, i.wellFormed = true := by
  exact ⟨.chachaDec 255 .ietf, by decide⟩

theorem witness_EncodeOfDecodeIsTheWord : ∃ (w : Word32) (i : Instr), decode w = .ok i := by
  exact ⟨0x36FF0002#32, .chachaDec 255 .ietf, by decide⟩

/-- Each row is matched by its own pattern, and by the word with every bit set that its mask leaves free. -/
theorem witness_DecodeAcceptsExactlyTheLegalWords :
    opcodeTable.all (fun row => row.Matches row.pattern && row.Matches (row.pattern ||| ~~~row.mask)) = true := by
  decide

/-- The two ends of the domain. -/
theorem witness_RotlMovesEveryBit : (0 ≤ 8 ∧ 8 ≤ 8) ∧ 7 < 8 := by decide

theorem witness_RotrUndoesRotl : 0 ≤ 32 ∧ 32 ≤ 32 := by decide

theorem witness_FealSBoxResults :
    ∃ (s : State) (a b : BitVec 8),
      AuxHolds s b ∧ DinHolds s a := by
  refine ⟨put .aux 0xFF 8 (put .din 0xFF 8 smallest), 0xFF#8, 0xFF#8, ?_⟩
  unfold AuxHolds DinHolds
  decide +kernel

theorem witness_FealFResult :
    ∃ (s : State) (a : Word32) (b : BitVec 16),
      AuxHolds s b ∧ DinHolds s a := by
  refine ⟨put .aux 0xFFFF 16 (put .din 0x00FFFF00 32), 0x00FFFF00#32, 0xFFFF#16, ?_⟩
  unfold AuxHolds DinHolds
  decide +kernel

theorem witness_FealFkResult :
    ∃ (s : State) (a b : Word32),
      AuxHolds s b ∧ DinHolds s a := by
  refine ⟨put .aux 1 32 (put .din 0 32), 0#32, 1#32, ?_⟩
  unfold AuxHolds DinHolds
  decide +kernel

/-- The least and the greatest round count that leave room in `DOUT` of the smallest instance. -/
theorem witness_FealKeyScheduleResult :
    ∃ (s : State) (k : BitVec 128),
      (FealRounds s 2 ∧ 16 * (2 + 8) ≤ s.par.dmax + 128) ∧ (FealRounds s 32 ∧ 16 * (32 + 8) ≤ s.par.dmax + 128) ∧
        KeyHolds s k := by
  refine ⟨put .key fealKey 128 smallest, 0x0123456789ABCDEF0123456789ABCDEF#128, ?_⟩
  unfold FealRounds KeyHolds
  decide +kernel

theorem witness_FealKeyScheduleWithoutRoom :
    ∃ (s : State) (k : BitVec 128),
      FealRounds s 34 ∧ FealRounds s 254 ∧ KeyHolds s k ∧ s.par.dmax + 128 < 16 * (34 + 8) ∧
        s.par.dmax + 128 < 16 * (254 + 8) := by
  refine ⟨put .key fealKey 128 { State.reset with par := ⟨111, 0, .hiFirst⟩ }, 0x0123456789ABCDEF0123456789ABCDEF#128, ?_⟩
  unfold FealRounds KeyHolds
  decide +kernel

theorem witness_FealEncryptBlockResult :
    ∃ (s : State) (k : BitVec 128) (p : Block64),
      FealRounds s 2 ∧ FealRounds s 254 ∧ KeyHolds s k ∧ DinHolds s p := by
  refine ⟨put .key fealKey 128 (put .din 7 64), 0x0123456789ABCDEF0123456789ABCDEF#128, 7#64, ?_⟩
  unfold FealRounds KeyHolds DinHolds
  decide +kernel

theorem witness_FealDecryptBlockResult :
    ∃ (s : State) (k : BitVec 128) (p : Block64),
      FealRounds s 2 ∧ FealRounds s 254 ∧ KeyHolds s k ∧ DinHolds s p := by
  refine ⟨put .key fealKey 128 (put .din 7 64), 0x0123456789ABCDEF0123456789ABCDEF#128, 7#64, ?_⟩
  unfold FealRounds KeyHolds DinHolds
  decide +kernel

/-- The empty text and a text that fills `DIN`. -/
theorem witness_FealEcbResults :
    (∃ (s : State) (n : Nat) (k : BitVec 128) (t : BitVec 0), FealRounds s n ∧ KeyHolds s k ∧ DinHolds s t) ∧
    (∃ (s : State) (n : Nat) (k : BitVec 128) (t : BitVec 512), FealRounds s n ∧ KeyHolds s k ∧ DinHolds s t) := by
  refine ⟨⟨put .key fealKey 128, 2, 0x0123456789ABCDEF0123456789ABCDEF#128, 0#0, ?_⟩,
    ⟨put .key fealKey 128 (put .din 5 512 smallest), 32, 0x0123456789ABCDEF0123456789ABCDEF#128, 5#512, ?_⟩⟩ <;>
  · unfold FealRounds KeyHolds DinHolds
    decide +kernel

theorem witness_EcbOnOneBlockIsTheBlockCommand :
    ∃ s : State, s.dinW.toNat = 64 := by
  exact ⟨put .din 7 64, by decide +kernel⟩

/-- Encryption first, then decryption first. -/
theorem witness_FealBlockRoundTrip :
    (∃ (s s' t : State) (n : Nat) (k : BitVec 128) (p : Block64), (FealRounds s n ∧ FealRounds s' n ∧
      KeyHolds s k ∧ KeyHolds s' k ∧ DinHolds s p ∧ DinHolds s' (t.dout.setWidth 64)) ∧
      exec (.fealEnc n false) s = .next t) ∧
    (∃ (s s' t : State) (n : Nat) (k : BitVec 128) (p : Block64), (FealRounds s n ∧ FealRounds s' n ∧
      KeyHolds s k ∧ KeyHolds s' k ∧ DinHolds s p ∧ DinHolds s' (t.dout.setWidth 64)) ∧
      exec (.fealDec n false) s = .next t) := by
  refine ⟨⟨put .key 5 128 (put .din 7 64),
    put .key 5 128 (put .din (after (.fealEnc 2 false) (put .key 5 128 (put .din 7 64))).dout.toNat 64), _, 2, 5#128,
    7#64, ?_, exec_eq_after (.fealEnc 2 false) (put .key 5 128 (put .din 7 64)) (by decide +kernel)⟩,
    ⟨put .key 5 128 (put .din 7 64),
    put .key 5 128 (put .din (after (.fealDec 2 false) (put .key 5 128 (put .din 7 64))).dout.toNat 64), _, 2, 5#128,
    7#64, ?_, exec_eq_after (.fealDec 2 false) (put .key 5 128 (put .din 7 64)) (by decide +kernel)⟩⟩ <;>
  · unfold FealRounds KeyHolds DinHolds
    decide +kernel

theorem witness_EcbRoundTripKeepsThePadding :
    ∃ (s s' t : State) (n : Nat) (k : BitVec 128) (text : BitVec 65), (FealRounds s n ∧ FealRounds s' n ∧
      KeyHolds s k ∧ KeyHolds s' k ∧ DinHolds s text ∧ DinHolds s' (t.dout.setWidth (64 * blocks64 65))) ∧
      exec (.fealEnc n true) s = .next t := by
  refine ⟨put .key 5 128 (put .din 7 65),
    put .key 5 128 (put .din (after (.fealEnc 2 true) (put .key 5 128 (put .din 7 65))).dout.toNat 128), _, 2, 5#128,
    7#65, ?_, exec_eq_after (.fealEnc 2 true) (put .key 5 128 (put .din 7 65)) (by decide +kernel)⟩
  unfold FealRounds KeyHolds DinHolds
  decide +kernel

theorem witness_SalsaQuarterroundResult :
    ∃ (s : State) (y0 y1 y2 y3 : Word32),
      DinHolds s (y0 ++ y1 ++ y2 ++ y3) := by
  refine ⟨put .din 0x00000001000000000000000000000000 128, 1#32, 0#32, 0#32, 0#32, ?_⟩
  unfold DinHolds
  decide +kernel

theorem witness_SalsaRoundResults :
    ∃ (s : State) (x : BitVec 512),
      DinHolds s x := by
  refine ⟨put .din 1 512 smallest, 1#512, ?_⟩
  unfold DinHolds
  decide +kernel

theorem witness_SalsaHashResult :
    ∃ (s : State) (x : BitVec 512),
      (StreamRounds 8 ∧ StreamRounds 12 ∧ StreamRounds 20) ∧ DinHolds s x := by
  refine ⟨put .din 1 512 smallest, 1#512, ?_⟩
  unfold StreamRounds DinHolds
  decide +kernel

/-- Both key widths. -/
theorem witness_SalsaExpansionResult :
    (∃ (s : State) (k : BitVec 128) (nonce : BitVec 128), StreamRounds 8 ∧ SalsaKeyHolds s (.k128 k) ∧
      NonceHolds s nonce) ∧
    (∃ (s : State) (k : BitVec 256) (nonce : BitVec 128), StreamRounds 20 ∧ SalsaKeyHolds s (.k256 k) ∧
      NonceHolds s nonce) := by
  refine ⟨⟨put .key 5 128 (put .nonce 6 128), 5#128, 6#128, ?_⟩, ⟨put .key 5 256 (put .nonce 6 128), 5#256, 6#128, ?_⟩⟩ <;>
  · simp only [StreamRounds, SalsaKeyHolds, KeyHolds, NonceHolds]
    decide +kernel

/-- The empty text and a text that fills `DIN`. -/
theorem witness_SalsaXcryptResult :
    (∃ (s : State) (k : BitVec 128) (iv : BitVec 64) (text : BitVec 0), StreamRounds 12 ∧ SalsaKeyHolds s (.k128 k) ∧
      NonceHolds s iv ∧ DinHolds s text) ∧
    (∃ (s : State) (k : BitVec 256) (iv : BitVec 64) (text : BitVec 65536), StreamRounds 20 ∧
      SalsaKeyHolds s (.k256 k) ∧ NonceHolds s iv ∧ DinHolds s text) := by
  refine ⟨⟨put .key 5 128 (put .nonce 6 64), 5#128, 6#64, 0#0, ?_⟩,
    ⟨put .key 5 256 (put .nonce 6 64 (put .din 9 65536)), 5#256, 6#64, 9#65536, ?_⟩⟩ <;>
  · simp only [StreamRounds, SalsaKeyHolds, KeyHolds, NonceHolds, DinHolds]
    decide +kernel

theorem witness_SalsaEncryptResult :
    (∃ (s : State) (k : BitVec 128) (text : BitVec 0), StreamRounds 12 ∧ SalsaKeyHolds s (.k128 k) ∧
      DinHolds s text) ∧
    (∃ (s : State) (k : BitVec 256) (text : BitVec 65536), StreamRounds 20 ∧ SalsaKeyHolds s (.k256 k) ∧
      DinHolds s text) := by
  refine ⟨⟨put .key 5 128, 5#128, 0#0, ?_⟩, ⟨put .key 5 256 (put .din 9 65536), 5#256, 9#65536, ?_⟩⟩ <;>
  · simp only [StreamRounds, SalsaKeyHolds, KeyHolds, DinHolds]
    decide +kernel

/-- The least width, 65, and the greatest. -/
theorem witness_SalsaDecryptResult :
    (∃ (s : State) (k : BitVec 128) (iv : BitVec 64) (text : BitVec 1), StreamRounds 12 ∧ SalsaKeyHolds s (.k128 k) ∧
      DinHolds s (iv ++ text) ∧ 0 < 1) ∧
    (∃ (s : State) (k : BitVec 256) (iv : BitVec 64) (text : BitVec 448), StreamRounds 20 ∧
      SalsaKeyHolds s (.k256 k) ∧ DinHolds s (iv ++ text) ∧ 0 < 448) := by
  refine ⟨⟨put .key 5 128 (put .din 3 65), 5#128, 1#64, 1#1, ?_⟩,
    ⟨put .key 5 256 (put .din 9 512 smallest), 5#256, 0#64, 9#448, ?_⟩⟩ <;>
  · simp only [StreamRounds, SalsaKeyHolds, KeyHolds, DinHolds]
    decide +kernel

theorem witness_ChachaQuarterroundResult :
    ∃ (s : State) (a b c d : Word32),
      DinHolds s (a ++ b ++ c ++ d) := by
  refine ⟨put .din 0x00000001000000000000000000000000 128, 1#32, 0#32, 0#32, 0#32, ?_⟩
  unfold DinHolds
  decide +kernel

theorem witness_ChachaIndexedQuarterroundResult :
    ∃ (s : State) (x : BitVec 512),
      [(15 : Fin 16), 0, 7, 2].Nodup ∧ DinHolds s x := by
  refine ⟨put .din 1 512 smallest, 1#512, ?_⟩
  unfold DinHolds
  decide +kernel

theorem witness_ChachaHashResult :
    ∃ (s : State) (x : BitVec 512),
      (StreamRounds 8 ∧ StreamRounds 12 ∧ StreamRounds 20) ∧ DinHolds s x := by
  refine ⟨put .din 1 512 smallest, 1#512, ?_⟩
  unfold StreamRounds DinHolds
  decide +kernel

/-- Both variants, and both orders of the DJB counter. -/
theorem witness_ChachaExpansionResult :
    (∃ (s : State) (k : BitVec 256) (n : BitVec 96) (c : BitVec 32), StreamRounds 8 ∧ KeyHolds s k ∧ NonceHolds s n ∧
      CtrHolds s c) ∧
    (∃ (s : State) (k : BitVec 256) (n : BitVec 64) (c : BitVec 64), StreamRounds 20 ∧ KeyHolds s k ∧
      NonceHolds s n ∧ CtrHolds s c ∧ s.par.djbCtrOrder = .hiFirst) ∧
    (∃ (s : State) (k : BitVec 256) (n : BitVec 64) (c : BitVec 64), StreamRounds 20 ∧ KeyHolds s k ∧
      NonceHolds s n ∧ CtrHolds s c ∧ s.par.djbCtrOrder = .loFirst) := by
  refine ⟨⟨put .key 5 256 (put .nonce 6 96 (put .ctr 7 32)), 5#256, 6#96, 7#32, ?_⟩,
    ⟨put .key 5 256 (put .nonce 6 64 (put .ctr 7 64)), 5#256, 6#64, 7#64, ?_⟩,
    ⟨put .key 5 256 (put .nonce 6 64 (put .ctr 7 64 smallest)), 5#256, 6#64, 7#64, ?_⟩⟩ <;>
  · unfold StreamRounds KeyHolds NonceHolds CtrHolds
    decide +kernel

theorem witness_ChachaXcryptResult :
    (∃ (s : State) (k : BitVec 256) (n : BitVec 96) (c : BitVec 32) (text : BitVec 0), StreamRounds 8 ∧
      KeyHolds s k ∧ NonceHolds s n ∧ CtrHolds s c ∧ DinHolds s text) ∧
    (∃ (s : State) (k : BitVec 256) (n : BitVec 64) (c : BitVec 64) (text : BitVec 65536), StreamRounds 20 ∧
      KeyHolds s k ∧ NonceHolds s n ∧ CtrHolds s c ∧ DinHolds s text) := by
  refine ⟨⟨put .key 5 256 (put .nonce 6 96 (put .ctr 7 32)), 5#256, 6#96, 7#32, 0#0, ?_⟩,
    ⟨put .key 5 256 (put .nonce 6 64 (put .ctr 7 64 (put .din 9 65536))), 5#256, 6#64, 7#64, 9#65536, ?_⟩⟩ <;>
  · unfold StreamRounds KeyHolds NonceHolds CtrHolds DinHolds
    decide +kernel

theorem witness_ChachaEncryptResult :
    (∃ (s : State) (k : BitVec 256) (c : BitVec 32) (text : BitVec 0), StreamRounds 8 ∧ KeyHolds s k ∧
      CtrHolds s c ∧ DinHolds s text) ∧
    (∃ (s : State) (k : BitVec 256) (c : BitVec 64) (text : BitVec 65536), StreamRounds 20 ∧ KeyHolds s k ∧
      CtrHolds s c ∧ DinHolds s text) := by
  refine ⟨⟨put .key 5 256 (put .ctr 7 32), 5#256, 7#32, 0#0, ?_⟩,
    ⟨put .key 5 256 (put .ctr 7 64 (put .din 9 65536)), 5#256, 7#64, 9#65536, ?_⟩⟩ <;>
  · unfold StreamRounds KeyHolds CtrHolds DinHolds
    decide +kernel

/-- The least widths: 97 bits for IETF, 65 for DJB. -/
theorem witness_ChachaDecryptResult :
    (∃ (s : State) (k : BitVec 256) (n : BitVec 96) (c : BitVec 32) (text : BitVec 1), StreamRounds 8 ∧
      KeyHolds s k ∧ 0 < 1 ∧ DinHolds s (n ++ text) ∧ CtrHolds s c) ∧
    (∃ (s : State) (k : BitVec 256) (n : BitVec 64) (c : BitVec 64) (text : BitVec 1), StreamRounds 20 ∧
      KeyHolds s k ∧ 0 < 1 ∧ DinHolds s (n ++ text) ∧ CtrHolds s c) := by
  refine ⟨⟨put .key 5 256 (put .ctr 7 32 (put .din 3 97)), 5#256, 1#96, 7#32, 1#1, ?_⟩,
    ⟨put .key 5 256 (put .ctr 7 64 (put .din 3 65)), 5#256, 1#64, 7#64, 1#1, ?_⟩⟩ <;>
  · unfold StreamRounds KeyHolds CtrHolds DinHolds
    decide +kernel

/-- A 128-bit Salsa20 key, a 64-bit IV and a 48-bit text. -/
def salsaLoaded : State := put .key 5 128 (put .nonce 6 64 (put .din 9 48))

/-- A ChaCha key, an IETF nonce and counter, and a 48-bit text. -/
def chachaLoaded : State := put .key 5 256 (put .nonce 6 96 (put .ctr 7 32 (put .din 9 48)))

theorem witness_XcryptTwiceReturnsTheText :
    (∃ (s t : State) (text : BitVec 48), DinHolds s text ∧ exec (.salsaXcrypt 8) s = .next t ∧
      t.status = okStatus s) ∧
    (∃ (s t : State) (text : BitVec 48), DinHolds s text ∧ exec (.chachaXcrypt 8 .ietf) s = .next t ∧
      t.status = okStatus s) := by
  refine ⟨⟨salsaLoaded, _, 9#48, ?_, exec_eq_after (.salsaXcrypt 8) salsaLoaded (by decide +kernel),
    by decide +kernel⟩, ⟨chachaLoaded, _, 9#48, ?_,
    exec_eq_after (.chachaXcrypt 8 .ietf) chachaLoaded (by decide +kernel), by decide +kernel⟩⟩ <;>
  · unfold DinHolds
    decide +kernel

theorem witness_DecryptReturnsTheEncryptedText :
    (∃ (s t : State) (text : BitVec 48), DinHolds s text ∧ exec (.salsaEnc 8) s = .next t ∧
      t.status = okStatus s ∧ t.doutW.toNat ≤ s.par.dmax) ∧
    (∃ (s t : State) (text : BitVec 48), DinHolds s text ∧ exec (.chachaEnc 8 .ietf) s = .next t ∧
      t.status = okStatus s ∧ t.doutW.toNat ≤ s.par.dmax) := by
  refine ⟨⟨salsaLoaded, _, 9#48, ?_, exec_eq_after (.salsaEnc 8) salsaLoaded (by decide +kernel),
    by decide +kernel⟩, ⟨chachaLoaded, _, 9#48, ?_,
    exec_eq_after (.chachaEnc 8 .ietf) chachaLoaded (by decide +kernel), by decide +kernel⟩⟩ <;>
  · unfold DinHolds
    decide +kernel

/-- The shorter text empty, the longer one two blocks long. -/
theorem witness_TheSalsaKeystreamOfAShorterTextIsAPrefix :
    ∃ (s t t' : State) (r v w : Nat), (v ≤ w ∧ w ≤ s.par.dmax ∧ s.din = 0#65536) ∧
      (exec (.salsaXcrypt r) { s with dinW := BitVec.ofNat 32 w } = .next t ∧ t.status.getLsbD 0 = true) ∧
      exec (.salsaXcrypt r) { s with dinW := BitVec.ofNat 32 v } = .next t' := by
  exact ⟨put .key 5 128 (put .nonce 6 64), _, _, 8, 0, 513, by decide +kernel,
    ⟨exec_eq_after (.salsaXcrypt 8) { put .key 5 128 (put .nonce 6 64) with dinW := BitVec.ofNat 32 513 }
      (by decide +kernel), by decide +kernel⟩,
    exec_eq_after (.salsaXcrypt 8) { put .key 5 128 (put .nonce 6 64) with dinW := BitVec.ofNat 32 0 }
      (by decide +kernel)⟩

/-- A word that fails step 1, one that fails step 2, one that fails step 3, and one that passes. -/
theorem witness_TheChecksRunInTheFixedOrder :
    (∀ w s, s.inReset = false → Issued (issue (.write 0x0000#16 4 w) s) (.write 0x0000#16 4 w) []) ∧
    wordError State.reset 0x00000000#32 = some 0x00010106#32 ∧
    wordError State.reset 0x15200002#32 = some 0x00030106#32 ∧
    wordError State.reset 0x15010000#32 = some 0x00020206#32 ∧
    wordError smallest 0x15220000#32 = some 0x00020406#32 ∧
    wordError State.reset 0x3100FFFF#32 = some 0x00090206#32 ∧
    wordError State.reset 0x15200000#32 = some 0x00040306#32 ∧
    wordError (put .key byteKey 256) 0x25140000#32 = some 0x00050306#32 ∧
    wordError (put .key byteKey 256) 0x36140002#32 = some 0x00060306#32 ∧
    wordError State.reset 0x12000000#32 = some 0x00070306#32 ∧
    wordError (put .key byteKey 256 (put .din 0 64)) 0x28140000#32 = some 0x00080306#32 ∧
    wordError (put .key byteKey 256 (put .din 0 513 smallest)) 0x27140000#32 = some 0x00080406#32 ∧
    wordError (put .key byteKey 256 (put .din 0 512 smallest)) 0x27140000#32 = none := by
  exact ⟨fun _ _ h => ⟨rfl, h⟩, by decide +kernel⟩

/-- A command that succeeds and one that fails. -/
theorem witness_NoCommandWritesAnOperandRegister :
    ∃ (i : Instr) (s t : State), exec i s = .next t := by
  exact ⟨.fealS0, put .aux 1 8 (put .din 2 8), _, exec_eq_after .fealS0 _ (by decide +kernel)⟩

theorem witness_DoutHoldsNothingAboveItsWidth :
    (∃ (i : Instr) (s t : State), exec i s = .next t ∧ t.status.getLsbD 0 = true) ∧
    (∃ (i : Instr) (s t : State), exec i s = .next t ∧ t.status.getLsbD 0 = false) := by
  exact ⟨⟨.fealS0, put .aux 1 8 (put .din 2 8), _, exec_eq_after .fealS0 _ (by decide +kernel), by decide +kernel⟩,
    ⟨.fealS0, put .aux 1 8, _, exec_eq_after .fealS0 _ (by decide +kernel), by decide +kernel⟩⟩

theorem witness_OnlyASuccessfulFealBlockCommandWritesTheTrace :
    (∃ (i : Instr) (s t : State), exec i s = .next t ∧ tracesBlock i = false) ∧
    (∃ (i : Instr) (s t : State), exec i s = .next t ∧ tracesBlock i = true ∧ t.status.getLsbD 0 = false) := by
  exact ⟨⟨.fealS0, put .aux 1 8 (put .din 2 8), _, exec_eq_after .fealS0 _ (by decide +kernel), rfl⟩,
    ⟨.fealEnc 2 true, State.reset, _, exec_eq_after (.fealEnc 2 true) _ (by decide +kernel), rfl,
      by decide +kernel⟩⟩

theorem witness_OnlyASuccessfulEncryptionDraws :
    (∃ (i : Instr) (s t : State), exec i s = .next t ∧ drawsIv i = false) ∧
    (∃ (r : Nat) (s t : State), exec (.salsaEnc r) s = .next t ∧ t.status.getLsbD 0 = true) ∧
    (∃ (r : Nat) (s t : State), exec (.chachaEnc r .ietf) s = .next t ∧ t.status.getLsbD 0 = true) := by
  exact ⟨⟨.fealS0, State.reset, _, exec_eq_after .fealS0 _ (by decide +kernel), rfl⟩,
    ⟨8, salsaLoaded, _, exec_eq_after (.salsaEnc 8) _ (by decide +kernel), by decide +kernel⟩,
    ⟨8, chachaLoaded, _, exec_eq_after (.chachaEnc 8 .ietf) _ (by decide +kernel), by decide +kernel⟩⟩

theorem witness_UnusedOperandsDoNotMatter :
    ∃ (i : Instr) (s t : State) (x : OpReg), uses x i = false ∧ exec i s = .next t := by
  exact ⟨.salsaEnc 8, salsaLoaded, _, .nonce, rfl, exec_eq_after (.salsaEnc 8) _ (by decide +kernel)⟩

/-- Two states that differ in what earlier commands left. -/
theorem witness_NothingPersistsBetweenCommands :
    ∃ (i : Instr) (s s' t t' : State), SameOperands s s' ∧ s.status ≠ s'.status ∧ exec i s = .next t ∧
      exec i s' = .next t' := by
  exact ⟨.salsaXcrypt 8, salsaLoaded, { salsaLoaded with status := 0x00020206#32, dout := 5#65664, cmd := 1#32 }, _, _,
    by simp [SameOperands], by decide +kernel, exec_eq_after (.salsaXcrypt 8) _ (by decide +kernel),
    exec_eq_after (.salsaXcrypt 8) _ (by decide +kernel)⟩

theorem witness_NoStepChangesTheParameters : ∃ s t : State, step s = .next t := by
  exact ⟨issue (.resetInput true) State.reset, _, rfl⟩

theorem witness_TheStickyErrorStaysUntilReset :
    ∃ s t : State, step s = .next t ∧ s.status.getLsbD 2 = true ∧ t.status.getLsbD 2 = false := by
  exact ⟨{ issue (.resetInput false) State.reset with inReset := true, status := 5#32 }, _, rfl, by decide, by decide⟩

theorem getD_zeros (n i : Nat) : (List.replicate n 0#32).getD i 0#32 = 0#32 := by
  rw [List.getD_eq_getElem?_getD, List.getElem?_replicate]
  split <;> rfl

theorem witness_EveryStepKeepsTheInvariant : ∃ s t : State, s.Inv ∧ step s = .next t := by
  refine ⟨put .key 5 128 { State.reset with status := 5#32 }, _, ?_, rfl⟩
  exact ⟨by decide +kernel, by decide +kernel, by decide +kernel, by decide +kernel,
    ⟨by decide +kernel, by decide +kernel, .inl rfl, fun i _ => getD_zeros 256 i, fun i _ => getD_zeros 256 i⟩⟩

end Sys2Proof.Tests
end

/-! PROOFS of the family of the state (10_state.md). The idea they share: every command, on two states that agree on
what it reads, does the same one of five things to each (`exec_sameRun`). -/

namespace Sys2Proof.Machine

open Sys2Proof Sys2Proof.Claims

/-! ### What a command can do to the state -/

/-- What a command does to the state, as data that names no state. -/
inductive Effect where
  /-- It fails (60_exceptions.md R176). -/
  | fails (e : CmdError)
  /-- It succeeds with a result (60_exceptions.md R178). -/
  | gives (v : Value)
  /-- It succeeds with a result that took a draw (60_exceptions.md R183). -/
  | draws (v : Value)
  /-- It succeeds with a result and writes the trace window (10_state.md R32). -/
  | traces (v : Value) (hist : List (Word32 × Word32))
  /-- It succeeds with a result the spec states only the width of (notes/assumptions/6.md). -/
  | unstated (width : Nat)

/-- The effect, on a state. -/
def Effect.on : Effect → State → State
  | .fails e, s => fail e s
  | .gives v, s => succeed v s
  | .draws v, s => succeed v (tookDraw s)
  | .traces v hist, s => writeTrace hist (succeed v s)
  | .unstated width, s => succeedUnstated width s

/-- The lengths of a history that a FEAL command leaves: none, or `(L[0], R[0])` to `(L[N], R[N])` for a legal `N`
(10_state.md R32). -/
def LegalHistory (p : Config.Params) (n : Nat) : Prop := n = 0 ∨ (n % 2 = 1 ∧ 3 ≤ n ∧ n ≤ p.nmax + 1)

/-- The effects the command `i` can have with the parameters `p`. -/
inductive Effect.Legal (i : Instr) (p : Config.Params) : Effect → Prop
  | fails {e : CmdError} (listed : failureStatus e ∈ statusWords) : Legal i p (.fails e)
  | gives {v : Value} (fits : v.width ≤ p.doutmax) (noDraw : drawsIv i = false) (noTrace : tracesBlock i = false) :
      Legal i p (.gives v)
  | draws {v : Value} (fits : v.width ≤ p.doutmax) (draw : drawsIv i = true) (noTrace : tracesBlock i = false) :
      Legal i p (.draws v)
  | traces {v : Value} {hist : List (Word32 × Word32)} (fits : v.width ≤ p.doutmax)
      (legal : LegalHistory p hist.length) (noDraw : drawsIv i = false) (trace : tracesBlock i = true) :
      Legal i p (.traces v hist)
  | unstated {width : Nat} (wide : p.doutmax < width) (bound : width < 2 ^ 32) (noDraw : drawsIv i = false)
      (noTrace : tracesBlock i = false) : Legal i p (.unstated width)

/-! ### Two states that agree on what a command reads -/

/-- The operand register `x` and its width tag hold the same in both states. -/
def SameOperand (x : OpReg) (s s' : State) : Prop := x.num s' = x.num s ∧ x.tag s' = x.tag s

/-- The two states agree on everything the command `i` reads: the parameters, the operands it uses (10_state.md R35),
and the draws and unstated results to come. -/
structure ReadsSame (i : Instr) (s s' : State) : Prop where
  par : s'.par = s.par
  draws : s'.draws = s.draws
  unstated : s'.unstated = s.unstated
  operand : ∀ x, uses x i = true → SameOperand x s s'

theorem ReadsSame.refl (i : Instr) (s : State) : ReadsSame i s s := ⟨rfl, rfl, rfl, fun _ _ => ⟨rfl, rfl⟩⟩

/-- The same checks on two states: they give the same, and an error they raise is one of 60_exceptions.md R171 to
R175. -/
structure Agrees {α : Type} (c c' : Except CmdError α) : Prop where
  eq : c' = c
  listed : ∀ e, c = .error e → failureStatus e ∈ statusWords

theorem Agrees.pure {α : Type} (a : α) : Agrees (Pure.pure a) (Pure.pure a) := ⟨rfl, fun _ h => nomatch h⟩

/-- Checks one after the other agree where each of them does. -/
theorem Agrees.andThen {α β : Type} {c c' : Except CmdError α} {k k' : α → Except CmdError β}
    (hc : Agrees c c') (hk : ∀ a, Agrees (k a) (k' a)) : Agrees (c >>= k) (c' >>= k') := by
  obtain ⟨rfl, hlisted⟩ := hc
  cases c' with
  | error e => exact ⟨rfl, fun e' he => hlisted e' (by cases he; rfl)⟩
  | ok a => exact hk a

section checks
variable {s s' : State}

theorem checkStreamRounds_agrees (n : Nat) : Agrees (checkStreamRounds n) (checkStreamRounds n) := by
  refine ⟨rfl, fun e he => ?_⟩
  obtain ⟨-, rfl⟩ := checkStreamRounds_eq_error.mp he
  decide

theorem checkIndices_agrees (i j k l : Fin 16) : Agrees (checkIndices i j k l) (checkIndices i j k l) := by
  refine ⟨rfl, fun e he => ?_⟩
  obtain ⟨-, rfl⟩ := checkIndices_eq_error.mp he
  decide

theorem checkFealRounds_agrees (hp : s'.par = s.par) (n : Nat) :
    Agrees (checkFealRounds s n) (checkFealRounds s' n) := by
  refine ⟨by rw [checkFealRounds, checkFealRounds, hp], fun e he => ?_⟩
  obtain ⟨-, rfl⟩ | ⟨-, -, -, rfl⟩ := checkFealRounds_eq_error.mp he <;> decide

theorem checkFits_congr {x : OpReg} (hp : s'.par = s.par) (hx : SameOperand x s s') :
    checkFits s' x = checkFits s x := by
  rw [checkFits, checkFits, hp, hx.1, hx.2]

theorem operand_agrees {x : OpReg} (hp : s'.par = s.par) (hx : SameOperand x s s') (w : Nat) :
    Agrees (operand s x w) (operand s' x w) := by
  refine ⟨by rw [operand, operand, checkFits_congr hp hx, hx.1, hx.2], fun e he => ?_⟩
  obtain ⟨-, rfl⟩ := operand_eq_error.mp he
  cases x <;> decide

theorem salsaKeyOperand_agrees (hp : s'.par = s.par) (hx : SameOperand .key s s') :
    Agrees (salsaKeyOperand s) (salsaKeyOperand s') := by
  refine ⟨?_, fun e he => ?_⟩
  · rw [salsaKeyOperand, salsaKeyOperand, hx.2, (operand_agrees hp hx 128).eq, (operand_agrees hp hx 256).eq]
  · obtain ⟨-, rfl⟩ := salsaKeyOperand_eq_error.mp he
    decide

theorem textOperand_agrees (hp : s'.par = s.par) (hx : SameOperand .din s s') (least : Nat) :
    Agrees (textOperand s least) (textOperand s' least) := by
  refine ⟨by rw [textOperand, textOperand, checkFits_congr hp hx, hp, hx.1, hx.2], fun e he => ?_⟩
  obtain ⟨-, rfl⟩ | ⟨-, -, rfl⟩ := textOperand_eq_error.mp he <;> decide

/-! Each command's checks, one after the other: the first error is the answer. -/

theorem unitOperands_eq_do (wa wb : Nat) (s : State) : unitOperands wa wb s = (do
    let b ← operand s .aux wb
    let a ← operand s .din wa
    pure (a, b)) := by
  unfold unitOperands
  cases operand s .aux wb with
  | error e => rfl
  | ok b => cases operand s .din wa <;> rfl

theorem unitOperands_agrees (hp : s'.par = s.par) (haux : SameOperand .aux s s') (hdin : SameOperand .din s s')
    (wa wb : Nat) : Agrees (unitOperands wa wb s) (unitOperands wa wb s') := by
  rw [unitOperands_eq_do, unitOperands_eq_do]
  exact (operand_agrees hp haux wb).andThen fun b => (operand_agrees hp hdin wa).andThen fun a => .pure _

theorem fealKeyOperand_eq_do (n : Nat) (s : State) : fealKeyOperand n s = (do
    checkFealRounds s n
    operand s .key 128) := by
  unfold fealKeyOperand
  cases checkFealRounds s n <;> rfl

theorem fealKeyOperand_agrees (hp : s'.par = s.par) (hkey : SameOperand .key s s') (n : Nat) :
    Agrees (fealKeyOperand n s) (fealKeyOperand n s') := by
  rw [fealKeyOperand_eq_do, fealKeyOperand_eq_do]
  exact (checkFealRounds_agrees hp n).andThen fun _ => operand_agrees hp hkey 128

theorem fealOperands_single_eq_do (n : Nat) (s : State) : fealOperands n false s = (do
    let k ← fealKeyOperand n s
    let t ← operand s .din 64
    pure (k, ⟨64, t⟩)) := by
  unfold fealOperands
  cases fealKeyOperand n s with
  | error e => rfl
  | ok k => cases operand s .din 64 <;> rfl

theorem fealOperands_ecb_eq_do (n : Nat) (s : State) : fealOperands n true s = (do
    let k ← fealKeyOperand n s
    let t ← textOperand s 0
    pure (k, t)) := by
  unfold fealOperands
  cases fealKeyOperand n s with
  | error e => rfl
  | ok k => cases textOperand s 0 <;> rfl

theorem fealOperands_agrees (hp : s'.par = s.par) (hkey : SameOperand .key s s') (hdin : SameOperand .din s s')
    (n : Nat) (ecb : Bool) : Agrees (fealOperands n ecb s) (fealOperands n ecb s') := by
  cases ecb with
  | false =>
    rw [fealOperands_single_eq_do, fealOperands_single_eq_do]
    exact (fealKeyOperand_agrees hp hkey n).andThen fun k =>
      (operand_agrees hp hdin 64).andThen fun t => .pure _
  | true =>
    rw [fealOperands_ecb_eq_do, fealOperands_ecb_eq_do]
    exact (fealKeyOperand_agrees hp hkey n).andThen fun k =>
      (textOperand_agrees hp hdin 0).andThen fun t => .pure _

theorem hashOperands_eq_do (n : Nat) (s : State) : hashOperands n s = (do
    checkStreamRounds n
    operand s .din 512) := by
  unfold hashOperands
  cases checkStreamRounds n <;> rfl

theorem hashOperands_agrees (hp : s'.par = s.par) (hdin : SameOperand .din s s') (n : Nat) :
    Agrees (hashOperands n s) (hashOperands n s') := by
  rw [hashOperands_eq_do, hashOperands_eq_do]
  exact (checkStreamRounds_agrees n).andThen fun _ => operand_agrees hp hdin 512

theorem qrsOperands_eq_do (i j k l : Fin 16) (s : State) : qrsOperands i j k l s = (do
    checkIndices i j k l
    operand s .din 512) := by
  unfold qrsOperands
  cases checkIndices i j k l <;> rfl

theorem qrsOperands_agrees (hp : s'.par = s.par) (hdin : SameOperand .din s s') (i j k l : Fin 16) :
    Agrees (qrsOperands i j k l s) (qrsOperands i j k l s') := by
  rw [qrsOperands_eq_do, qrsOperands_eq_do]
  exact (checkIndices_agrees i j k l).andThen fun _ => operand_agrees hp hdin 512

theorem salsaKeyed_eq_do (n : Nat) (s : State) : salsaKeyed n s = (do
    checkStreamRounds n
    salsaKeyOperand s) := by
  unfold salsaKeyed
  cases checkStreamRounds n <;> rfl

theorem salsaKeyed_agrees (hp : s'.par = s.par) (hkey : SameOperand .key s s') (n : Nat) :
    Agrees (salsaKeyed n s) (salsaKeyed n s') := by
  rw [salsaKeyed_eq_do, salsaKeyed_eq_do]
  exact (checkStreamRounds_agrees n).andThen fun _ => salsaKeyOperand_agrees hp hkey

theorem salsaExpOperands_eq_do (n : Nat) (s : State) : salsaExpOperands n s = (do
    let k ← salsaKeyed n s
    let x ← operand s .nonce 128
    pure (k, x)) := by
  unfold salsaExpOperands
  cases salsaKeyed n s with
  | error e => rfl
  | ok k => cases operand s .nonce 128 <;> rfl

theorem salsaExpOperands_agrees (hp : s'.par = s.par) (hkey : SameOperand .key s s')
    (hnonce : SameOperand .nonce s s') (n : Nat) : Agrees (salsaExpOperands n s) (salsaExpOperands n s') := by
  rw [salsaExpOperands_eq_do, salsaExpOperands_eq_do]
  exact (salsaKeyed_agrees hp hkey n).andThen fun k => (operand_agrees hp hnonce 128).andThen fun x => .pure _

theorem salsaTextOperands_eq_do (n least : Nat) (s : State) : salsaTextOperands n least s = (do
    let k ← salsaKeyed n s
    let t ← textOperand s least
    pure (k, t)) := by
  unfold salsaTextOperands
  cases salsaKeyed n s with
  | error e => rfl
  | ok k => cases textOperand s least <;> rfl

theorem salsaTextOperands_agrees (hp : s'.par = s.par) (hkey : SameOperand .key s s')
    (hdin : SameOperand .din s s') (n least : Nat) :
    Agrees (salsaTextOperands n least s) (salsaTextOperands n least s') := by
  rw [salsaTextOperands_eq_do, salsaTextOperands_eq_do]
  exact (salsaKeyed_agrees hp hkey n).andThen fun k =>
    (textOperand_agrees hp hdin least).andThen fun t => .pure _

theorem salsaXcryptOperands_eq_do (n : Nat) (s : State) : salsaXcryptOperands n s = (do
    let k ← salsaKeyed n s
    let iv ← operand s .nonce 64
    let t ← textOperand s 0
    pure (k, iv, t)) := by
  unfold salsaXcryptOperands
  cases salsaKeyed n s with
  | error e => rfl
  | ok k =>
    cases operand s .nonce 64 with
    | error e => rfl
    | ok iv => cases textOperand s 0 <;> rfl

theorem salsaXcryptOperands_agrees (hp : s'.par = s.par) (hkey : SameOperand .key s s')
    (hnonce : SameOperand .nonce s s') (hdin : SameOperand .din s s') (n : Nat) :
    Agrees (salsaXcryptOperands n s) (salsaXcryptOperands n s') := by
  rw [salsaXcryptOperands_eq_do, salsaXcryptOperands_eq_do]
  exact (salsaKeyed_agrees hp hkey n).andThen fun k => (operand_agrees hp hnonce 64).andThen fun iv =>
    (textOperand_agrees hp hdin 0).andThen fun t => .pure _

theorem chachaKeyed_eq_do (n : Nat) (s : State) : chachaKeyed n s = (do
    checkStreamRounds n
    operand s .key 256) := by
  unfold chachaKeyed
  cases checkStreamRounds n <;> rfl

theorem chachaKeyed_agrees (hp : s'.par = s.par) (hkey : SameOperand .key s s') (n : Nat) :
    Agrees (chachaKeyed n s) (chachaKeyed n s') := by
  rw [chachaKeyed_eq_do, chachaKeyed_eq_do]
  exact (checkStreamRounds_agrees n).andThen fun _ => operand_agrees hp hkey 256

theorem chachaExpOperands_eq_do (n : Nat) (v : Variant) (s : State) : chachaExpOperands n v s = (do
    let k ← chachaKeyed n s
    let x ← operand s .nonce (nonceWidth v)
    let c ← operand s .ctr (ctrWidth v)
    pure ⟨k, x, c⟩) := by
  unfold chachaExpOperands
  cases chachaKeyed n s with
  | error e => rfl
  | ok k =>
    cases operand s .nonce (nonceWidth v) with
    | error e => rfl
    | ok x => cases operand s .ctr (ctrWidth v) <;> rfl

theorem chachaExpOperands_agrees (hp : s'.par = s.par) (hkey : SameOperand .key s s')
    (hnonce : SameOperand .nonce s s') (hctr : SameOperand .ctr s s') (n : Nat) (v : Variant) :
    Agrees (chachaExpOperands n v s) (chachaExpOperands n v s') := by
  rw [chachaExpOperands_eq_do, chachaExpOperands_eq_do]
  exact (chachaKeyed_agrees hp hkey n).andThen fun k =>
    (operand_agrees hp hnonce (nonceWidth v)).andThen fun x =>
      (operand_agrees hp hctr (ctrWidth v)).andThen fun c => .pure _

theorem chachaXcryptOperands_eq_do (n : Nat) (v : Variant) (s : State) : chachaXcryptOperands n v s = (do
    let o ← chachaExpOperands n v s
    let t ← textOperand s 0
    pure (o, t)) := by
  unfold chachaXcryptOperands
  cases chachaExpOperands n v s with
  | error e => rfl
  | ok o => cases textOperand s 0 <;> rfl

theorem chachaXcryptOperands_agrees (hp : s'.par = s.par) (hkey : SameOperand .key s s')
    (hnonce : SameOperand .nonce s s') (hctr : SameOperand .ctr s s') (hdin : SameOperand .din s s')
    (n : Nat) (v : Variant) : Agrees (chachaXcryptOperands n v s) (chachaXcryptOperands n v s') := by
  rw [chachaXcryptOperands_eq_do, chachaXcryptOperands_eq_do]
  exact (chachaExpOperands_agrees hp hkey hnonce hctr n v).andThen fun o =>
    (textOperand_agrees hp hdin 0).andThen fun t => .pure _

theorem chachaTextOperands_eq_do (n : Nat) (v : Variant) (least : Nat) (s : State) :
    chachaTextOperands n v least s = (do
      let k ← chachaKeyed n s
      let c ← operand s .ctr (ctrWidth v)
      let t ← textOperand s least
      pure ⟨k, c, t⟩) := by
  unfold chachaTextOperands
  cases chachaKeyed n s with
  | error e => rfl
  | ok k =>
    cases operand s .ctr (ctrWidth v) with
    | error e => rfl
    | ok c => cases textOperand s least <;> rfl

theorem chachaTextOperands_agrees (hp : s'.par = s.par) (hkey : SameOperand .key s s')
    (hctr : SameOperand .ctr s s') (hdin : SameOperand .din s s') (n : Nat) (v : Variant) (least : Nat) :
    Agrees (chachaTextOperands n v least s) (chachaTextOperands n v least s') := by
  rw [chachaTextOperands_eq_do, chachaTextOperands_eq_do]
  exact (chachaKeyed_agrees hp hkey n).andThen fun k => (operand_agrees hp hctr (ctrWidth v)).andThen fun c =>
    (textOperand_agrees hp hdin least).andThen fun t => .pure _

end checks

/-! ### Sizes: the capacities, a text's width, a history's length -/

theorem dmax_le_65536 (p : Config.Params) : p.dmax ≤ 65536 := by
  have := p.dmaxSteps.isLt
  simp only [Config.Params.dmax]
  omega

theorem six_forty_le_doutmax (p : Config.Params) : 640 ≤ p.doutmax := by
  simp only [Config.Params.doutmax, Config.Params.dmax]
  omega

theorem nmax_le_254 (p : Config.Params) : p.nmax ≤ 254 := by
  have := p.nmaxSteps.isLt
  simp only [Config.Params.nmax]
  omega

theorem add_dmax_le_doutmax (p : Config.Params) {n : Nat} (hn : n ≤ 128) : n + p.dmax ≤ p.doutmax := by
  simp only [Config.Params.doutmax]
  omega

/-- `DMAX` is a multiple of 64, so padding a text that fits to whole blocks keeps it within `DMAX` (00_scope.md R9). -/
theorem padded_le_dmax {p : Config.Params} {w : Nat} (h : w ≤ p.dmax) : 64 * ceilDiv w 64 ≤ p.dmax := by
  simp only [Config.Params.dmax, ceilDiv] at *
  omega

theorem textOperand_width_le {s : State} {least : Nat} {v : Value} (h : textOperand s least = .ok v) :
    v.width ≤ s.par.dmax := by
  obtain ⟨hw, -, -, rfl⟩ := textOperand_eq_ok.mp h
  exact hw

theorem encryptRounds_length (ks : List Half) (lr : Word32 × Word32) :
    (encryptRounds ks lr).length = ks.length + 1 := by
  induction ks generalizing lr with
  | nil => rfl
  | cons k ks ih => simp [encryptRounds, ih]

theorem decryptRounds_length (ks : List Half) (lr : Word32 × Word32) :
    (decryptRounds ks lr).length = ks.length + 1 := by
  induction ks generalizing lr with
  | nil => rfl
  | cons k ks ih => simp [decryptRounds, ih]

theorem roundKeys_length (sk : List Half) (n : Nat) : (roundKeys sk n).length = n := by
  simp [roundKeys]

theorem fealEncryptBlock_history_length (sk : List Half) (n : Nat) (p : Block64) :
    (fealEncryptBlock sk n p).history.length = n + 1 := by
  simp [fealEncryptBlock, encryptRounds_length, roundKeys_length]

theorem fealDecryptBlock_history_length (sk : List Half) (n : Nat) (c : Block64) :
    (fealDecryptBlock sk n c).history.length = n + 1 := by
  simp [fealDecryptBlock, decryptRounds_length, roundKeys_length]

/-- A legal round count gives a legal history (60_exceptions.md R177 step 2). -/
theorem legalHistory_of_rounds {s : State} {n : Nat} (h : checkFealRounds s n = .ok ()) :
    LegalHistory s.par (n + 1) := by
  obtain ⟨heven, hleast, hmost⟩ := checkFealRounds_eq_ok.mp h
  unfold LegalHistory
  omega

/-! ### Every command has one of the five effects -/

/-- One legal effect leads from `s` to `t` and from `s'` to `t'`. -/
def SameChange (i : Instr) (s s' t t' : State) : Prop :=
  ∃ f : Effect, f.Legal i s.par ∧ t = f.on s ∧ t' = f.on s'

/-- Both runs answer a next state, and one legal effect leads to each. -/
def SameRun (i : Instr) (s s' : State) (o o' : Result) : Prop :=
  ∃ t t', o = .next t ∧ o' = .next t' ∧ SameChange i s s' t t'

/-- A command whose checks agree, and whose effect on the operands they give is the same, runs the same. -/
theorem afterChecks_sameRun {i : Instr} {s s' : State} {α : Type} {c c' : Except CmdError α} {k k' : α → State}
    (hc : Agrees c c') (hk : ∀ a, c = .ok a → SameChange i s s' (k a) (k' a)) :
    SameRun i s s' (afterChecks c k s) (afterChecks c' k' s') := by
  obtain ⟨rfl, hlisted⟩ := hc
  cases c' with
  | error e => exact ⟨_, _, rfl, rfl, .fails e, .fails (hlisted e rfl), rfl, rfl⟩
  | ok a => exact ⟨_, _, rfl, rfl, hk a rfl⟩

section changes
variable {i : Instr} {s s' : State}

theorem succeed_sameChange {v v' : Value} (hv : v' = v) (fits : v.width ≤ s.par.doutmax)
    (noDraw : drawsIv i = false := by rfl) (noTrace : tracesBlock i = false := by rfl) :
    SameChange i s s' (succeed v s) (succeed v' s') :=
  ⟨.gives v, .gives fits noDraw noTrace, rfl, by rw [hv]; rfl⟩

/-- The results of a fixed width of at most 512 bits fit in every `DOUT`. -/
theorem succeed_sameChange_of_le {v v' : Value} (hv : v' = v) (fits : v.width ≤ 512)
    (noDraw : drawsIv i = false := by rfl) (noTrace : tracesBlock i = false := by rfl) :
    SameChange i s s' (succeed v s) (succeed v' s') :=
  succeed_sameChange hv (fits.trans ((by decide : 512 ≤ 640).trans (six_forty_le_doutmax s.par))) noDraw noTrace

theorem draw_sameChange {v v' : Value} (hv : v' = v) (fits : v.width ≤ s.par.doutmax)
    (draw : drawsIv i = true := by rfl) (noTrace : tracesBlock i = false := by rfl) :
    SameChange i s s' (succeed v (tookDraw s)) (succeed v' (tookDraw s')) :=
  ⟨.draws v, .draws fits draw noTrace, rfl, by rw [hv]; rfl⟩

theorem scheduleResult_sameChange (hp : s'.par = s.par) {n : Nat} (hn : checkFealRounds s n = .ok ())
    (k : BitVec 128) (noDraw : drawsIv i = false := by rfl) (noTrace : tracesBlock i = false := by rfl) :
    SameChange i s s' (scheduleResult n s k) (scheduleResult n s' k) := by
  obtain ⟨-, -, hmost⟩ := checkFealRounds_eq_ok.mp hn
  have hmax := nmax_le_254 s.par
  unfold scheduleResult
  rw [hp]
  split
  case isTrue room => exact succeed_sameChange rfl room noDraw noTrace
  case isFalse wide => exact ⟨.unstated _, .unstated (by omega) (by omega) noDraw noTrace, rfl, rfl⟩

/-- Both block functions leave the history of all `N` rounds, so both commands have a legal effect (41_feal.md R112,
R113). -/
theorem fealEffect_sameChange {fn : Block64 → BlockResult} {n : Nat} {ecb : Bool} {k : BitVec 128} {text : Value}
    (hfn : ∀ b, (fn b).history.length = n + 1) (hok : fealOperands n ecb s = .ok (k, text))
    (noDraw : drawsIv i = false := by rfl) (trace : tracesBlock i = true := by rfl) :
    SameChange i s s' (fealEffect fn ecb text s) (fealEffect fn ecb text s') := by
  cases ecb with
  | false =>
    obtain ⟨hkey, -⟩ := fealOperands_single_eq_ok.mp hok
    obtain ⟨hrounds, -⟩ := fealKeyOperand_eq_ok.mp hkey
    have hlen := legalHistory_of_rounds hrounds
    have hfits : 64 ≤ s.par.doutmax := (by decide : 64 ≤ 640).trans (six_forty_le_doutmax s.par)
    exact ⟨.traces _ _, .traces hfits ((hfn _).symm ▸ hlen) noDraw trace, rfl, rfl⟩
  | true =>
    obtain ⟨hkey, htext⟩ := fealOperands_ecb_eq_ok.mp hok
    obtain ⟨hrounds, -⟩ := fealKeyOperand_eq_ok.mp hkey
    have hfits : 64 * ceilDiv text.width 64 ≤ s.par.doutmax :=
      (padded_le_dmax (textOperand_width_le htext)).trans (Nat.le_add_right _ _)
    have hlen : LegalHistory s.par (lastHistory fn text.bits).length := by
      unfold lastHistory
      split
      · exact .inl rfl
      · rw [hfn]
        exact legalHistory_of_rounds hrounds
    exact ⟨.traces _ _, .traces hfits hlen noDraw trace, rfl, rfl⟩

end changes

/-- What every command does, and all it depends on: on two states that agree on what it reads, it answers a next state
and has the same legal effect on both (00_scope.md R15, 10_state.md R20, R35). -/
theorem exec_sameRun {i : Instr} {s s' : State} (h : ReadsSame i s s') : SameRun i s s' (exec i s) (exec i s') := by
  obtain ⟨hp, hdraws, -, hx⟩ := h
  have hdrawn (n : Nat) : drawn n s' = drawn n s := by rw [drawn, drawn, hdraws]
  cases i with
  | fealS0 =>
    exact afterChecks_sameRun (unitOperands_agrees hp (hx .aux rfl) (hx .din rfl) 8 8)
      fun _ _ => succeed_sameChange_of_le rfl (by decide : 8 ≤ 512)
  | fealS1 =>
    exact afterChecks_sameRun (unitOperands_agrees hp (hx .aux rfl) (hx .din rfl) 8 8)
      fun _ _ => succeed_sameChange_of_le rfl (by decide : 8 ≤ 512)
  | fealF =>
    exact afterChecks_sameRun (unitOperands_agrees hp (hx .aux rfl) (hx .din rfl) 32 16)
      fun _ _ => succeed_sameChange_of_le rfl (by decide : 32 ≤ 512)
  | fealFk =>
    exact afterChecks_sameRun (unitOperands_agrees hp (hx .aux rfl) (hx .din rfl) 32 32)
      fun _ _ => succeed_sameChange_of_le rfl (by decide : 32 ≤ 512)
  | fealKs n =>
    exact afterChecks_sameRun (fealKeyOperand_agrees hp (hx .key rfl) n)
      fun k hok => scheduleResult_sameChange hp (fealKeyOperand_eq_ok.mp hok).1 k
  | fealEnc n ecb =>
    exact afterChecks_sameRun (fealOperands_agrees hp (hx .key rfl) (hx .din rfl) n ecb)
      fun _ hok => fealEffect_sameChange (fealEncryptBlock_history_length _ n) hok
  | fealDec n ecb =>
    exact afterChecks_sameRun (fealOperands_agrees hp (hx .key rfl) (hx .din rfl) n ecb)
      fun _ hok => fealEffect_sameChange (fealDecryptBlock_history_length _ n) hok
  | salsaQr =>
    exact afterChecks_sameRun (operand_agrees hp (hx .din rfl) 128)
      fun _ _ => succeed_sameChange_of_le rfl (by decide : 128 ≤ 512)
  | salsaRr =>
    exact afterChecks_sameRun (operand_agrees hp (hx .din rfl) 512)
      fun _ _ => succeed_sameChange_of_le rfl le_rfl
  | salsaCr =>
    exact afterChecks_sameRun (operand_agrees hp (hx .din rfl) 512)
      fun _ _ => succeed_sameChange_of_le rfl le_rfl
  | salsaDr =>
    exact afterChecks_sameRun (operand_agrees hp (hx .din rfl) 512)
      fun _ _ => succeed_sameChange_of_le rfl le_rfl
  | salsaHash n =>
    exact afterChecks_sameRun (hashOperands_agrees hp (hx .din rfl) n)
      fun _ _ => succeed_sameChange_of_le rfl le_rfl
  | salsaExp n =>
    exact afterChecks_sameRun (salsaExpOperands_agrees hp (hx .key rfl) (hx .nonce rfl) n)
      fun _ _ => succeed_sameChange_of_le rfl le_rfl
  | salsaXcrypt n =>
    refine afterChecks_sameRun (salsaXcryptOperands_agrees hp (hx .key rfl) (hx .nonce rfl) (hx .din rfl) n)
      fun ⟨_, _, text⟩ hok => succeed_sameChange rfl ?_
    obtain ⟨-, -, htext⟩ := salsaXcryptOperands_eq_ok.mp hok
    exact (textOperand_width_le htext).trans (Nat.le_add_right _ _)
  | salsaEnc n =>
    refine afterChecks_sameRun (salsaTextOperands_agrees hp (hx .key rfl) (hx .din rfl) n 0)
      fun ⟨_, text⟩ hok => draw_sameChange (by rw [hdrawn]) ?_
    obtain ⟨-, htext⟩ := salsaTextOperands_eq_ok.mp hok
    exact (Nat.add_le_add_left (textOperand_width_le htext) 64).trans (add_dmax_le_doutmax _ (by decide))
  | salsaDec n =>
    refine afterChecks_sameRun (salsaTextOperands_agrees hp (hx .key rfl) (hx .din rfl) n 65)
      fun ⟨_, text⟩ hok => succeed_sameChange rfl ?_
    obtain ⟨-, htext⟩ := salsaTextOperands_eq_ok.mp hok
    exact (Nat.sub_le _ _).trans ((textOperand_width_le htext).trans (Nat.le_add_right _ _))
  | chachaQr =>
    exact afterChecks_sameRun (operand_agrees hp (hx .din rfl) 128)
      fun _ _ => succeed_sameChange_of_le rfl (by decide : 128 ≤ 512)
  | chachaQrs a b c d =>
    exact afterChecks_sameRun (qrsOperands_agrees hp (hx .din rfl) a b c d)
      fun _ _ => succeed_sameChange_of_le rfl le_rfl
  | chachaHash n =>
    exact afterChecks_sameRun (hashOperands_agrees hp (hx .din rfl) n)
      fun _ _ => succeed_sameChange_of_le rfl le_rfl
  | chachaExp n v =>
    exact afterChecks_sameRun (chachaExpOperands_agrees hp (hx .key rfl) (hx .nonce rfl) (hx .ctr rfl) n v)
      fun _ _ => succeed_sameChange_of_le (by rw [hp]) le_rfl
  | chachaXcrypt n v =>
    refine afterChecks_sameRun
      (chachaXcryptOperands_agrees hp (hx .key rfl) (hx .nonce rfl) (hx .ctr rfl) (hx .din rfl) n v)
      fun ⟨_, text⟩ hok => succeed_sameChange (by rw [hp]) ?_
    obtain ⟨-, htext⟩ := chachaXcryptOperands_eq_ok.mp hok
    exact (textOperand_width_le htext).trans (Nat.le_add_right _ _)
  | chachaEnc n v =>
    refine afterChecks_sameRun (chachaTextOperands_agrees hp (hx .key rfl) (hx .ctr rfl) (hx .din rfl) n v 0)
      fun _ hok => draw_sameChange (by rw [hdrawn, hp]) ?_
    obtain ⟨-, -, htext⟩ := chachaTextOperands_eq_ok.mp hok
    have hnonce : nonceWidth v ≤ 128 := by cases v <;> decide
    exact (Nat.add_le_add_left (textOperand_width_le htext) _).trans (add_dmax_le_doutmax _ hnonce)
  | chachaDec n v =>
    refine afterChecks_sameRun
      (chachaTextOperands_agrees hp (hx .key rfl) (hx .ctr rfl) (hx .din rfl) n v (nonceWidth v + 1))
      fun _ hok => succeed_sameChange (by rw [hp]) ?_
    obtain ⟨-, -, htext⟩ := chachaTextOperands_eq_ok.mp hok
    exact (Nat.sub_le _ _).trans ((textOperand_width_le htext).trans (Nat.le_add_right _ _))

/-- A command's next state comes from one of its legal effects. -/
theorem exec_effect {i : Instr} {s t : State} (h : exec i s = .next t) :
    ∃ f : Effect, f.Legal i s.par ∧ t = f.on s := by
  obtain ⟨u, -, hu, -, f, hlegal, hf, -⟩ := exec_sameRun (ReadsSame.refl i s)
  obtain rfl : t = u := Host.Outcome.next.inj (h.symm.trans hu)
  exact ⟨f, hlegal, hf⟩

/-! ### What the effects leave in `STATUS` and `DOUT` -/

/-- The low byte of a failure's `STATUS` is `0b110` (60_exceptions.md R176). -/
theorem failureStatus_low (e : CmdError) {b : Nat} (h : b < 8) :
    (failureStatus e).getLsbD b = (6#8).getLsbD b := by
  show (0#8 ++ (e.info.code ++ (e.code.code ++ 6#8)) : BitVec (8 + (8 + (8 + 8)))).getLsbD b = _
  rw [BitVec.getLsbD_append, BitVec.getLsbD_append, BitVec.getLsbD_append, if_pos (by omega), if_pos (by omega),
    if_pos h]

theorem failureStatus_ok (e : CmdError) : (failureStatus e).getLsbD 0 = false := failureStatus_low e (by decide)

theorem failureStatus_estk (e : CmdError) : (failureStatus e).getLsbD 2 = true := failureStatus_low e (by decide)

theorem successStatus_ok (old : Word32) : (successStatus old).getLsbD 0 = true := by
  unfold successStatus
  split <;> decide

/-- A success leaves `ESTK` as it was (60_exceptions.md R178). -/
theorem successStatus_estk (old : Word32) : (successStatus old).getLsbD 2 = old.getLsbD 2 := by
  unfold successStatus statusEstk
  split
  case isTrue hset => rw [hset]; decide
  case isFalse hclear => rw [Bool.eq_false_of_not_eq_true hclear]; decide

/-- A success leaves `ECODE` and `EINFO` 0 (60_exceptions.md R178). -/
theorem successStatus_code (old : Word32) : (successStatus old).extractLsb' 8 16 = 0#16 := by
  unfold successStatus
  split <;> decide

theorem successStatus_mem_statusWords (old : Word32) : successStatus old ∈ statusWords := by
  unfold successStatus
  split <;> decide

/-- The effect is a success. -/
def Effect.succeeds : Effect → Bool
  | .fails _ => false
  | .gives _ => true
  | .draws _ => true
  | .traces _ _ => true
  | .unstated _ => true

theorem Effect.on_status (f : Effect) (s : State) :
    (∃ e, f = .fails e ∧ (f.on s).status = failureStatus e) ∨
      (f.succeeds = true ∧ (f.on s).status = successStatus s.status) := by
  cases f with
  | fails e => exact .inl ⟨e, rfl, rfl⟩
  | gives v => exact .inr ⟨rfl, rfl⟩
  | draws v => exact .inr ⟨rfl, rfl⟩
  | traces v hist => exact .inr ⟨rfl, rfl⟩
  | unstated w => exact .inr ⟨rfl, rfl⟩

theorem Effect.on_status_ok (f : Effect) (s : State) : (f.on s).status.getLsbD 0 = f.succeeds := by
  obtain ⟨e, rfl, hst⟩ | ⟨hsucc, hst⟩ := f.on_status s
  · rw [hst, failureStatus_ok]; rfl
  · rw [hst, successStatus_ok, hsucc]

/-- No effect clears `ESTK` (60_exceptions.md R179). -/
theorem Effect.on_status_estk (f : Effect) {s : State} (h : s.status.getLsbD 2 = true) :
    (f.on s).status.getLsbD 2 = true := by
  obtain ⟨e, rfl, hst⟩ | ⟨-, hst⟩ := f.on_status s
  · rw [hst, failureStatus_estk]
  · rw [hst, successStatus_estk, h]

theorem Effect.on_status_mem {f : Effect} {i : Instr} {p : Config.Params} (hf : f.Legal i p) (s : State) :
    (f.on s).status ∈ statusWords := by
  obtain ⟨e, rfl, hst⟩ | ⟨-, hst⟩ := f.on_status s
  · cases hf with
    | fails listed => rwa [hst]
  · rw [hst]
    exact successStatus_mem_statusWords _

/-- `DOUT` holds nothing at or above `DOUT_W` and nothing above `DOUTMAX` (10_state.md R27). -/
def DoutFits (s : State) : Prop := s.dout.toNat < 2 ^ s.doutW.toNat ∧ s.dout.toNat < 2 ^ s.par.doutmax

/-- The widths within `DOUTMAX` are no wider than `DOUT_W` can say. -/
theorem toNat_ofNat_width {p : Config.Params} {w : Nat} (h : w ≤ p.doutmax) : (BitVec.ofNat 32 w).toNat = w := by
  have hmax := dmax_le_65536 p
  have : w ≤ p.dmax + 128 := h
  rw [BitVec.toNat_ofNat, Nat.mod_eq_of_lt (by omega)]

theorem succeed_doutFits {v : Value} {s : State} (fits : v.width ≤ s.par.doutmax) : DoutFits (succeed v s) := by
  have hlt : (v.bits.setWidth doutBits).toNat < 2 ^ v.width := by
    rw [BitVec.toNat_setWidth]
    exact (Nat.mod_le _ _).trans_lt v.bits.isLt
  refine ⟨?_, hlt.trans_le (Nat.pow_le_pow_right (by decide) fits)⟩
  rw [succeed_dout, succeed_doutW, toNat_ofNat_width fits]
  exact hlt

theorem succeedUnstated_doutFits {w : Nat} {s : State} (wide : s.par.doutmax < w) (bound : w < 2 ^ 32) :
    DoutFits (succeedUnstated w s) := by
  have hlt : (succeedUnstated w s).dout.toNat < 2 ^ s.par.doutmax := by
    rw [succeedUnstated_dout, BitVec.toNat_ofNat]
    exact (Nat.mod_le _ _).trans_lt (Nat.mod_lt _ (Nat.two_pow_pos _))
  refine ⟨?_, hlt⟩
  rw [succeedUnstated_doutW, BitVec.toNat_ofNat, Nat.mod_eq_of_lt bound]
  exact hlt.trans (Nat.pow_lt_pow_right (by decide) wide)

theorem Effect.on_doutFits {f : Effect} {i : Instr} {s : State} (hf : f.Legal i s.par) (hsucc : f.succeeds = true) :
    DoutFits (f.on s) := by
  cases hf with
  | fails listed => exact nomatch hsucc
  | gives fits => exact succeed_doutFits fits
  | @draws v fits => exact succeed_doutFits (s := tookDraw s) fits
  | @traces v hist fits => exact succeed_doutFits (v := v) (s := s) fits
  | unstated wide bound => exact succeedUnstated_doutFits wide bound

theorem Effect.on_dout_of_fails {f : Effect} (hf : f.succeeds = false) (s : State) :
    (f.on s).dout = s.dout ∧ (f.on s).doutW = s.doutW := by
  cases f with
  | fails e => exact ⟨rfl, rfl⟩
  | gives v => exact nomatch hf
  | draws v => exact nomatch hf
  | traces v hist => exact nomatch hf
  | unstated w => exact nomatch hf

/-! ### What the effects leave in the trace window -/

theorem traceEntries_length {l : List Word32} (h : l.length ≤ 256) : (traceEntries l).length = 256 := by
  simp only [traceEntries, List.length_append, List.length_replicate]
  omega

theorem traceEntry_replicate_zero (n i : Nat) : traceEntry (List.replicate n 0#32) i = 0#32 := by
  rw [traceEntry, List.getD_eq_getElem?_getD, List.getElem?_replicate]
  split <;> rfl

/-- Beyond the entries given, the trace window is 0 (10_state.md R32). -/
theorem traceEntry_traceEntries {l : List Word32} {i : Nat} (h : l.length ≤ i) :
    traceEntry (traceEntries l) i = 0#32 := by
  rw [traceEntry, traceEntries, List.getD_append_right _ _ _ _ h]
  exact traceEntry_replicate_zero _ _

theorem writeTrace_traceLegal {hist : List (Word32 × Word32)} {s : State} (h : LegalHistory s.par hist.length) :
    TraceLegal (writeTrace hist s) := by
  have hmax := nmax_le_254 s.par
  have hlen : hist.length ≤ 255 := by unfold LegalHistory at h; omega
  have hcount : (writeTrace hist s).trN.toNat = hist.length := by
    rw [writeTrace_trN, BitVec.toNat_ofNat, Nat.mod_eq_of_lt (by omega)]
  exact {
    leftLength := traceEntries_length (by rw [List.length_map]; omega)
    rightLength := traceEntries_length (by rw [List.length_map]; omega)
    count := by rw [hcount]; exact h
    leftZero := fun i hi => traceEntry_traceEntries (by rw [List.length_map]; omega)
    rightZero := fun i hi => traceEntry_traceEntries (by rw [List.length_map]; omega) }

theorem Effect.on_trace {f : Effect} {i : Instr} {p : Config.Params} (hf : f.Legal i p) (s : State)
    (h : tracesBlock i = false ∨ f.succeeds = false) :
    (f.on s).trN = s.trN ∧ (f.on s).trl = s.trl ∧ (f.on s).trr = s.trr := by
  cases hf with
  | fails listed => exact ⟨rfl, rfl, rfl⟩
  | gives fits => exact ⟨rfl, rfl, rfl⟩
  | draws fits => exact ⟨rfl, rfl, rfl⟩
  | unstated wide => exact ⟨rfl, rfl, rfl⟩
  | traces _ _ _ trace =>
    obtain hquiet | hfail := h
    · exact absurd (hquiet.symm.trans trace) (by decide)
    · exact nomatch hfail

/-! ### The operands under an effect -/

/-- The frame of every effect: the operands, `CMD`, the parameters and the host's side of the bus (10_state.md R20). -/
theorem Effect.on_frame (f : Effect) (s : State) : f.on s = { s with
    dout := (f.on s).dout, doutW := (f.on s).doutW, status := (f.on s).status, trN := (f.on s).trN
    trl := (f.on s).trl, trr := (f.on s).trr, draws := (f.on s).draws, unstated := (f.on s).unstated } := by
  cases f with
  | fails e => rfl
  | gives v => rfl
  | draws v => rfl
  | traces v hist => rfl
  | unstated w => rfl

/-- An effect names no operand register, so it commutes with replacing one. -/
theorem Effect.on_withOperand (f : Effect) (x : OpReg) (num tag : Nat) (s : State) :
    f.on (withOperand x num tag s) = withOperand x num tag (f.on s) := by
  cases f with
  | fails e => cases x <;> rfl
  | gives v => cases x <;> rfl
  | draws v => cases x <;> rfl
  | traces v hist => cases x <;> rfl
  | unstated w => cases x <;> rfl

/-- Replacing one operand register leaves the others (10_state.md R20). -/
theorem sameOperand_withOperand {x y : OpReg} (hne : y ≠ x) (num tag : Nat) (s : State) :
    SameOperand y s (withOperand x num tag s) := by
  cases x with
  | key =>
    cases y with
    | key => exact absurd rfl hne
    | _ => exact ⟨rfl, rfl⟩
  | nonce =>
    cases y with
    | nonce => exact absurd rfl hne
    | _ => exact ⟨rfl, rfl⟩
  | ctr =>
    cases y with
    | ctr => exact absurd rfl hne
    | _ => exact ⟨rfl, rfl⟩
  | aux =>
    cases y with
    | aux => exact absurd rfl hne
    | _ => exact ⟨rfl, rfl⟩
  | din =>
    cases y with
    | din => exact absurd rfl hne
    | _ => exact ⟨rfl, rfl⟩

theorem readsSame_withOperand {i : Instr} {x : OpReg} (h : uses x i = false) (num tag : Nat) (s : State) :
    ReadsSame i s (withOperand x num tag s) where
  par := by cases x <;> rfl
  draws := by cases x <;> rfl
  unstated := by cases x <;> rfl
  operand y hy := sameOperand_withOperand (by rintro rfl; exact absurd (h.symm.trans hy) (by decide)) num tag s

theorem readsSame_of_sameOperands {s s' : State} (h : SameOperands s s') (i : Instr) : ReadsSame i s s' := by
  obtain ⟨hpar, hkey, hkeyW, hnonce, hnonceW, hctr, hctrW, haux, hauxW, hdin, hdinW, hdraws, hunstated⟩ := h
  refine ⟨hpar.symm, hdraws.symm, hunstated.symm, fun x _ => ?_⟩
  cases x with
  | key => exact ⟨congrArg BitVec.toNat hkey.symm, congrArg BitVec.toNat hkeyW.symm⟩
  | nonce => exact ⟨congrArg BitVec.toNat hnonce.symm, congrArg BitVec.toNat hnonceW.symm⟩
  | ctr => exact ⟨congrArg BitVec.toNat hctr.symm, congrArg BitVec.toNat hctrW.symm⟩
  | aux => exact ⟨congrArg BitVec.toNat haux.symm, congrArg BitVec.toNat hauxW.symm⟩
  | din => exact ⟨congrArg BitVec.toNat hdin.symm, congrArg BitVec.toNat hdinW.symm⟩

/-- What a success leaves does not depend on what stood in `DOUT`, `DOUT_W` or the trace window. -/
theorem Effect.on_result_congr {f : Effect} {i : Instr} {s s' : State} (hf : f.Legal i s.par)
    (h : ReadsSame i s s') (hsucc : f.succeeds = true) :
    (f.on s).dout = (f.on s').dout ∧ (f.on s).doutW = (f.on s').doutW ∧
      (tracesBlock i = true → (f.on s).trN = (f.on s').trN ∧ (f.on s).trl = (f.on s').trl ∧
        (f.on s).trr = (f.on s').trr) := by
  cases hf with
  | fails listed => exact nomatch hsucc
  | gives _ _ noTrace => exact ⟨rfl, rfl, fun hi => absurd (noTrace.symm.trans hi) (by decide)⟩
  | draws _ _ noTrace => exact ⟨rfl, rfl, fun hi => absurd (noTrace.symm.trans hi) (by decide)⟩
  | traces => exact ⟨rfl, rfl, fun _ => ⟨rfl, rfl, rfl⟩⟩
  | unstated _ _ _ noTrace =>
    refine ⟨?_, rfl, fun hi => absurd (noTrace.symm.trans hi) (by decide)⟩
    simp only [Effect.on, succeedUnstated_dout, h.par, h.unstated]

theorem Effect.on_code (f : Effect) (s s' : State) :
    (f.on s).status.extractLsb' 8 16 = (f.on s').status.extractLsb' 8 16 := by
  cases f with
  | fails e => rfl
  | gives v => exact (successStatus_code _).trans (successStatus_code _).symm
  | draws v => exact (successStatus_code _).trans (successStatus_code _).symm
  | traces v hist => exact (successStatus_code _).trans (successStatus_code _).symm
  | unstated w => exact (successStatus_code _).trans (successStatus_code _).symm

/-! ### What a step can do -/

/-- The six ways a step answers a next state (20_memory.md R52, R53, R59, 30_encoding.md R70, 70_reset_and_hazards.md
R190). -/
inductive StepTo (s : State) : State → Prop
  | idle (bus : s.bus = []) : StepTo s s
  | reset {level : Bool} {rest : List HostEvent} (bus : s.bus = .resetInput level :: rest) :
      StepTo s (driveReset level { s with bus := rest })
  | read {a : Addr} {size : Nat} {rest : List HostEvent} {v : Word32} (bus : s.bus = .read a size :: rest) :
      StepTo s { s with bus := rest, readData := some v }
  | write {a : Addr} {size : Nat} {rest : List HostEvent} {v : Word32} {loc : Loc}
      (bus : s.bus = .write a size v :: rest) (hit : reachForWrite s.par a size = .ok loc) :
      StepTo s (loc.write { s with bus := rest } v)
  | reject {a : Addr} {size : Nat} {rest : List HostEvent} {w : Word32} {r : DecodeReject}
      (bus : s.bus = .write a size w :: rest) (illegal : decode w = .error r) :
      StepTo s (fail (rejectError r) { s with bus := rest, cmd := w })
  | command {a : Addr} {size : Nat} {rest : List HostEvent} {w : Word32} {i : Instr} {t : State}
      (bus : s.bus = .write a size w :: rest) (legal : decode w = .ok i)
      (run : exec i { s with bus := rest, cmd := w } = .next t) : StepTo s t

theorem stepTo_of_busWrite {s t : State} {a : Addr} {size : Nat} {rest : List HostEvent} {v : Word32}
    (bus : s.bus = .write a size v :: rest) (h : busWrite a size v { s with bus := rest } = .next t) :
    StepTo s t := by
  cases hit : reachForWrite s.par a size with
  | error e =>
    rw [busWrite, hit] at h
    exact nomatch h
  | ok loc =>
    by_cases hcmd : loc = .cmd
    · subst hcmd
      replace h : runCommand v { s with bus := rest, cmd := v } = .next t := by
        rw [busWrite, hit] at h
        exact h
      cases hdec : decode v with
      | error r =>
        rw [runCommand, hdec] at h
        cases h
        exact .reject bus hdec
      | ok i =>
        rw [runCommand, hdec] at h
        exact .command bus hdec h
    · rw [busWrite_eq (s := { s with bus := rest }) hit hcmd] at h
      cases h
      exact .write bus hit

/-- What a step can do, once and for all. -/
theorem stepTo_of_step {s t : State} (h : step s = .next t) : StepTo s t := by
  cases bus : s.bus with
  | nil =>
    rw [step, hostStep, bus] at h
    cases h
    exact .idle bus
  | cons e rest =>
    rw [step_cons bus] at h
    cases e with
    | resetInput level =>
      cases h
      exact .reset bus
    | read a size =>
      simp only [hostEvent] at h
      split at h
      · exact nomatch h
      · cases hit : reach s.par a size with
        | error e =>
          rw [busRead, hit] at h
          exact nomatch h
        | ok loc =>
          rw [busRead_eq (s := { s with bus := rest }) hit] at h
          cases h
          exact .read bus
    | write a size v =>
      simp only [hostEvent] at h
      split at h
      · exact nomatch h
      · exact stepTo_of_busWrite bus h

/-! ### The operands and the trace window of a command -/

/-- Settles O51: every effect keeps the operands, and a command is one effect. -/
theorem noCommandWritesAnOperandRegister : Obligations.NoCommandWritesAnOperandRegister := by
  intro i s t h
  obtain ⟨f, -, rfl⟩ := exec_effect h
  exact f.on_frame s

/-- Settles O52: a success stores a result no wider than `DOUT_W`, a failure stores none. -/
theorem doutHoldsNothingAboveItsWidth : Obligations.DoutHoldsNothingAboveItsWidth := by
  intro i s t h
  obtain ⟨f, hlegal, rfl⟩ := exec_effect h
  rw [f.on_status_ok]
  refine ⟨fun hsucc b hb => ?_, fun hfail => Effect.on_dout_of_fails hfail s⟩
  obtain ⟨hwidth, -⟩ := Effect.on_doutFits hlegal hsucc
  exact Nat.testBit_lt_two_pow (hwidth.trans_le (Nat.pow_le_pow_right (by decide) hb))

/-- Settles O53: only the effect of a FEAL block command writes the trace window. -/
theorem onlyASuccessfulFealBlockCommandWritesTheTrace :
    Obligations.OnlyASuccessfulFealBlockCommandWritesTheTrace := by
  intro i s t h hquiet
  obtain ⟨f, hlegal, rfl⟩ := exec_effect h
  rw [f.on_status_ok] at hquiet
  exact Effect.on_trace hlegal s hquiet

/-- Settles O55: with an unused register replaced the command has the same effect, and the effect names no register. -/
theorem unusedOperandsDoNotMatter : Obligations.UnusedOperandsDoNotMatter := by
  intro i s t x num tag hunused h
  obtain ⟨u, u', hu, hu', f, -, rfl, rfl⟩ := exec_sameRun (readsSame_withOperand hunused num tag s)
  obtain rfl : t = f.on s := Host.Outcome.next.inj (h.symm.trans hu)
  rw [hu', f.on_withOperand]

/-- Settles O56: the two runs have the same effect, whose result and error do not depend on the state. -/
theorem nothingPersistsBetweenCommands : Obligations.NothingPersistsBetweenCommands := by
  intro i s s' t t' hsame h h'
  have hreads := readsSame_of_sameOperands hsame i
  obtain ⟨u, u', hu, hu', f, hlegal, rfl, rfl⟩ := exec_sameRun hreads
  obtain rfl : t = f.on s := Host.Outcome.next.inj (h.symm.trans hu)
  obtain rfl : t' = f.on s' := Host.Outcome.next.inj (h'.symm.trans hu')
  rw [f.on_status_ok, f.on_status_ok]
  exact ⟨rfl, f.on_code s s', Effect.on_result_congr hlegal hreads⟩

/-! ### A key schedule wider than `DOUT` -/

theorem operand_key_of_keyHolds {s : State} {w : Nat} {k : BitVec w} (h : KeyHolds s k) : operand s .key w = .ok k := by
  obtain ⟨htag, hnum⟩ := h
  refine operand_eq_ok.mpr ⟨htag, fun hwide => ?_, ?_⟩
  · exact absurd (hnum ▸ hwide.2 : 2 ^ w ≤ k.toNat) (Nat.not_le.mpr k.isLt)
  · show k = BitVec.ofNat w s.key.toNat
    rw [hnum, BitVec.ofNat_toNat, BitVec.setWidth_eq]

/-- Settles O24: the checks pass, and `FEAL.KS` takes its branch without room. -/
theorem fealKeyScheduleWithoutRoom : Obligations.FealKeyScheduleWithoutRoom := by
  intro s n k hrounds hkey hwide
  have hchecks : fealKeyOperand n s = .ok k :=
    fealKeyOperand_eq_ok.mpr ⟨checkFealRounds_eq_ok.mpr hrounds, operand_key_of_keyHolds hkey⟩
  have hroom : ¬ 16 * (n + 8) ≤ s.par.doutmax := Nat.not_le.mpr hwide
  have hrun : exec (.fealKs n) s = .next (succeedUnstated (16 * (n + 8)) s) := by
    show execFealKs n s = _
    rw [execFealKs, hchecks, afterChecks_ok, scheduleResult, if_neg hroom]
  have hbound : n ≤ s.par.nmax := hrounds.2.2
  have hmax := nmax_le_254 s.par
  exact ⟨_, (succeedUnstated_doutFits hwide (by omega)).2, hrun⟩

/-! ### Reset -/

theorem allZero_resetWith (p : Config.Params) (bus : List HostEvent) (r : Option Word32) (d u : Nat) :
    AllZero (State.resetWith p bus r d u) := by
  simp only [AllZero, State.resetWith, zeroTrace, and_self]

/-- Driving the reset input either releases it from where it was asserted, or sets its level and nothing else
(70_reset_and_hazards.md R190). -/
theorem driveReset_eq (level : Bool) (s : State) :
    (s.inReset = true ∧ level = false ∧ driveReset level s = releaseReset s) ∨
      driveReset level s = { s with inReset := level } := by
  cases level with
  | true => exact .inr rfl
  | false =>
    cases hheld : s.inReset with
    | true => exact .inl ⟨rfl, rfl, by rw [driveReset, if_pos hheld]⟩
    | false => exact .inr (by rw [driveReset, if_neg (by simp [hheld]), ← hheld])

/-- Settles O1: the reset state is a reset of the default parameters. -/
theorem resetLeavesEveryRegisterZero : Obligations.ResetLeavesEveryRegisterZero :=
  allZero_resetWith Config.Params.default [] none 0 0

/-- Settles O2: the step takes the release, which resets all but the model's own fields. -/
theorem releasingResetClearsEveryRegister : Obligations.ReleasingResetClearsEveryRegister := by
  intro s rest hbus hheld
  refine ⟨releaseReset { s with bus := rest }, ?_, allZero_resetWith _ _ _ _ _, rfl, rfl, rfl⟩
  have hrelease : driveReset false { s with bus := rest } = releaseReset { s with bus := rest } := if_pos hheld
  rw [step_cons hbus, hostEvent, hrelease]

theorem Loc.write_status (loc : Loc) (s : State) (v : Word32) : (loc.write s v).status = s.status := by
  cases loc <;> rfl

/-- Settles O58: of the six things a step can do, only the release of the asserted input lowers `ESTK`. -/
theorem theStickyErrorStaysUntilReset : Obligations.TheStickyErrorStaysUntilReset := by
  intro s t h hset hclear
  have keeps (hkept : t.status.getLsbD 2 = true) : False := absurd (hkept.symm.trans hclear) (by decide)
  cases stepTo_of_step h with
  | idle => exact (keeps hset).elim
  | read => exact (keeps hset).elim
  | write => exact (keeps (by rwa [Loc.write_status])).elim
  | reject => exact (keeps (failureStatus_estk _)).elim
  | command _ _ run =>
    obtain ⟨f, -, rfl⟩ := exec_effect run
    exact (keeps (f.on_status_estk hset)).elim
  | @reset level rest bus =>
    obtain ⟨hheld, rfl, hrelease⟩ | hlevel := driveReset_eq level { s with bus := rest }
    · rw [hrelease]
      exact ⟨hheld, ⟨rest, bus⟩, allZero_resetWith _ _ _ _ _⟩
    · rw [hlevel] at keeps
      exact (keeps hset).elim

/-! ### The invariant -/

/-- The registers the invariant speaks of, with the parameters it measures them by. -/
def State.guarded (s : State) :=
  (s.par, s.din, s.dout, s.doutW, s.status, s.trN, s.trl, s.trr)

/-- The invariant speaks of no other field. -/
theorem State.Inv.of_guarded_eq {s t : State} (hs : s.Inv) (h : t.guarded = s.guarded) : t.Inv := by
  obtain ⟨hdin, hdout, hwidth, hstatus, hl, hr, hcount, hlz, hrz⟩ := hs
  simp only [State.guarded, Prod.mk.injEq] at h
  obtain ⟨hpar, hdin', hdout', hdoutW', hstatus', htrN', htrl', htrr'⟩ := h
  rw [← hpar] at hdin hdout hcount
  rw [← hdin'] at hdin
  rw [← hdout'] at hdout hwidth
  rw [← hdoutW'] at hwidth
  rw [← hstatus'] at hstatus
  rw [← htrN'] at hcount hlz hrz
  rw [← htrl'] at hl hlz
  rw [← htrr'] at hr hrz
  exact ⟨hdin, hdout, hwidth, hstatus, hl, hr, hcount, hlz, hrz⟩

theorem zero_toNat_lt_two_pow (c n : Nat) : (0#c).toNat < 2 ^ n := by
  rw [BitVec.toNat_ofNat, Nat.zero_mod]
  exact Nat.two_pow_pos n

theorem inv_resetWith (p : Config.Params) (bus : List HostEvent) (r : Option Word32) (d u : Nat) :
    (State.resetWith p bus r d u).Inv where
  dinFits := zero_toNat_lt_two_pow _ _
  doutFits := zero_toNat_lt_two_pow _ _
  doutInWidth := zero_toNat_lt_two_pow _ _
  statusWord := List.mem_cons_self
  trace := {
    leftLength := List.length_replicate
    rightLength := List.length_replicate
    count := .inl rfl
    leftZero := fun i _ => traceEntry_replicate_zero 256 i
    rightZero := fun i _ => traceEntry_replicate_zero 256 i }

/-- Settles O59: the reset state is a reset of the default parameters. -/
theorem theInvariantHoldsAfterReset : Obligations.TheInvariantHoldsAfterReset :=
  inv_resetWith Config.Params.default [] none 0 0

theorem inv_driveReset {level : Bool} {s : State} (h : s.Inv) : (driveReset level s).Inv := by
  obtain ⟨-, -, hrelease⟩ | hlevel := driveReset_eq level s
  · rw [hrelease]
    exact inv_resetWith _ _ _ _ _
  · rw [hlevel]
    exact h.of_guarded_eq rfl

/-- A write to word `j` changes nothing at or above bit `n` where the word ends below `n` (20_memory.md R53). -/
theorem writeWord_toNat_lt {c j n : Nat} {x : BitVec c} (v : Word32) (hx : x.toNat < 2 ^ n) (hj : 32 * j + 32 ≤ n) :
    (writeWord x j v).toNat < 2 ^ n := by
  refine Nat.lt_pow_two_of_testBit _ fun b hb => ?_
  have hold : x.getLsbD b = false := Nat.testBit_lt_two_pow (hx.trans_le (Nat.pow_le_pow_right (by decide) hb))
  have hnew : v.getLsbD (b - 32 * j) = false := BitVec.getLsbD_of_ge _ _ (by omega)
  show (writeWord x j v).getLsbD b = false
  simp [writeWord, BitVec.getLsbD_or, BitVec.getLsbD_and, BitVec.getLsbD_shiftLeft, hold, hnew]

/-- A table read row by row: where the first row's answer is not the one given, the rest of the table gave it. -/
theorem ite_rest_eq {α : Type} {c : Prop} [Decidable c] {x y z : α} (h : (if c then x else y) = z) (hne : x ≠ z) :
    y = z := by
  rw [if_neg (fun hc => hne ((if_pos hc).symm.trans h))] at h
  exact h

/-- The words of `DIN` on the bus end where `DMAX` ends them (20_memory.md R51). -/
theorem din_word_le_dmax {p : Config.Params} {a j : Nat} (h : locate p a = some (.din j)) : 32 * j + 32 ≤ p.dmax := by
  unfold locate at h
  iterate 15 replace h := ite_rest_eq h nofun
  by_cases hrow : 0x4000 ≤ a ∧ a < 0x4000 + p.dmax / 8
  · rw [if_pos hrow] at h
    cases h
    simp only [Config.Params.dmax, wordIndex] at hrow ⊢
    omega
  · rw [if_neg hrow] at h
    exact nomatch ite_rest_eq h nofun

theorem inv_write {s : State} {a : Addr} {size : Nat} {loc : Loc} (v : Word32)
    (hit : reachForWrite s.par a size = .ok loc) (h : s.Inv) : (loc.write s v).Inv := by
  cases loc with
  | din j =>
    obtain ⟨hreach, -⟩ := reachForWrite_eq_ok.mp hit
    obtain ⟨-, -, hrow⟩ := reach_eq_ok.mp hreach
    obtain ⟨hdin, hdout, hwidth, hstatus, hl, hr, hcount, hlz, hrz⟩ := h
    exact ⟨writeWord_toNat_lt v hdin (din_word_le_dmax hrow), hdout, hwidth, hstatus, hl, hr, hcount, hlz, hrz⟩
  | _ => exact h.of_guarded_eq rfl

theorem rejectError_listed (r : DecodeReject) : failureStatus (rejectError r) ∈ statusWords := by
  cases r <;> decide

theorem inv_fail {e : CmdError} {s : State} (listed : failureStatus e ∈ statusWords) (h : s.Inv) :
    (fail e s).Inv := by
  obtain ⟨hdin, hdout, hwidth, -, hl, hr, hcount, hlz, hrz⟩ := h
  exact ⟨hdin, hdout, hwidth, listed, hl, hr, hcount, hlz, hrz⟩

/-- A legal effect keeps the trace window legal: it leaves it alone or writes a legal history (10_state.md R32). -/
theorem Effect.on_traceLegal {f : Effect} {i : Instr} {s : State} (hf : f.Legal i s.par) (h : TraceLegal s) :
    TraceLegal (f.on s) := by
  obtain ⟨hl, hr, hcount, hlz, hrz⟩ := h
  cases hf with
  | traces fits legal => exact writeTrace_traceLegal legal
  | _ => exact ⟨hl, hr, hcount, hlz, hrz⟩

theorem Effect.on_inv {f : Effect} {i : Instr} {s : State} (hf : f.Legal i s.par) (h : s.Inv) : (f.on s).Inv := by
  have hpar : (f.on s).par = s.par := by rw [f.on_frame]
  have hdin : (f.on s).din = s.din := by rw [f.on_frame]
  have hdout : DoutFits (f.on s) := by
    cases hsucc : f.succeeds with
    | true => exact Effect.on_doutFits hf hsucc
    | false =>
      obtain ⟨hsame, hsameW⟩ := Effect.on_dout_of_fails hsucc s
      rw [DoutFits, hsame, hsameW, hpar]
      exact ⟨h.doutInWidth, h.doutFits⟩
  exact {
    dinFits := by rw [hdin, hpar]; exact h.dinFits
    doutFits := hdout.2
    doutInWidth := hdout.1
    statusWord := Effect.on_status_mem hf s
    trace := Effect.on_traceLegal hf h.trace }

/-- Settles O60: each of the six things a step can do keeps the invariant. -/
theorem everyStepKeepsTheInvariant : Obligations.EveryStepKeepsTheInvariant := by
  intro s t hinv h
  cases stepTo_of_step h with
  | idle => exact hinv
  | reset => exact inv_driveReset (hinv.of_guarded_eq rfl)
  | read => exact hinv.of_guarded_eq rfl
  | write bus hit => exact inv_write _ hit (hinv.of_guarded_eq rfl)
  | reject => exact inv_fail (rejectError_listed _) (hinv.of_guarded_eq rfl)
  | command _ _ run =>
    obtain ⟨f, hlegal, rfl⟩ := exec_effect run
    exact Effect.on_inv hlegal (hinv.of_guarded_eq rfl)

end Sys2Proof.Machine

/-! PROOFS of the family of the host's bus (20_memory.md). The idea they share: every location of the register space
has one address (`Loc.address`), and the address map of the model is the inverse of that (`locate_eq_some_iff`), so each
statement about addresses becomes one about locations. -/

namespace Sys2Proof.Machine

open Sys2Proof Sys2Proof.Claims

/-! ### The address map -/

/-- The byte address of a location: its register's base, plus four for each word before it (20_memory.md R51, R55). -/
def Loc.address : Loc → Nat
  | .cmd => 0x0000
  | .status => 0x0004
  | .keyW => 0x0008
  | .nonceW => 0x000C
  | .ctrW => 0x0010
  | .auxW => 0x0014
  | .dinW => 0x0018
  | .doutW => 0x001C
  | .key j => 0x0020 + 4 * j
  | .nonce j => 0x0040 + 4 * j
  | .ctr j => 0x0050 + 4 * j
  | .aux => 0x0058
  | .trN => 0x005C
  | .trl i => 0x0400 + 4 * i
  | .trr i => 0x0800 + 4 * i
  | .din j => 0x4000 + 4 * j
  | .dout j => 0x8000 + 4 * j

/-- The location exists: a multiword register has as many words as 20_memory.md R51 gives it. -/
def Loc.Mapped (p : Config.Params) : Loc → Prop
  | .key j => j < 8
  | .nonce j => j < 4
  | .ctr j => j < 2
  | .trl i => i < 256
  | .trr i => i < 256
  | .din j => j < p.dmax / 32
  | .dout j => j < (p.dmax + 128) / 32
  | .cmd | .status | .keyW | .nonceW | .ctrW | .auxW | .dinW | .doutW | .aux | .trN => True

theorem dmax_eq (p : Config.Params) : p.dmax = 512 * (1 + p.dmaxSteps.val) := rfl

theorem doutmax_eq (p : Config.Params) : p.doutmax = p.dmax + 128 := rfl

theorem address_mod_four (loc : Loc) : loc.address % 4 = 0 := by
  cases loc <;> simp only [Loc.address] <;> omega

/-- The map sends a location's address to the location: no two rows overlap (20_memory.md R51). -/
theorem locate_address {p : Config.Params} {loc : Loc} (h : loc.Mapped p) : locate p loc.address = some loc := by
  have hmax := dmax_le_65536 p
  have hdmax := dmax_eq p
  have hdoutmax := doutmax_eq p
  cases loc <;> simp only [Loc.Mapped] at h <;>
    simp (disch := omega) only [locate, Loc.address, wordIndex, if_neg, if_pos, Nat.add_sub_cancel_left,
      Nat.mul_div_cancel_left]

/-- A table read row by row: its answer is the first row's, or that of the rest of the table. -/
theorem row_or_rest {c : Prop} [Decidable c] {x z : Loc} {rest : Option Loc}
    (h : (if c then some x else rest) = some z) : c ∧ x = z ∨ rest = some z := by
  split at h
  case isTrue hc => exact .inl ⟨hc, Option.some.inj h⟩
  case isFalse => exact .inr h

/-- What the map answers for an aligned address is a location with that address. -/
theorem address_of_locate {p : Config.Params} {a : Nat} {loc : Loc} (aligned : a % 4 = 0)
    (h : locate p a = some loc) : loc.Mapped p ∧ a = loc.address := by
  have hdmax := dmax_eq p
  have hdoutmax := doutmax_eq p
  unfold locate at h
  iterate 17
    obtain ⟨row, rfl⟩ | h := row_or_rest h
    · simp only [Loc.Mapped, Loc.address, wordIndex, true_and]
      omega
  exact nomatch h

theorem locate_eq_some_iff {p : Config.Params} {a : Nat} {loc : Loc} (aligned : a % 4 = 0) :
    locate p a = some loc ↔ loc.Mapped p ∧ a = loc.address :=
  ⟨address_of_locate aligned, fun ⟨mapped, haddr⟩ => haddr ▸ locate_address mapped⟩

/-- An address is that of one location at most. -/
theorem address_injective {p : Config.Params} {l m : Loc} (hl : l.Mapped p) (hm : m.Mapped p)
    (h : l.address = m.address) : l = m :=
  Option.some.inj ((locate_address hl).symm.trans (h ▸ locate_address hm))

theorem reach_eq_ok_iff_address {p : Config.Params} {a : Addr} {n : Nat} {loc : Loc} :
    reach p a n = .ok loc ↔ n = 4 ∧ loc.Mapped p ∧ a.toNat = loc.address := by
  rw [reach_eq_ok]
  refine and_congr_right fun _ => ⟨fun ⟨aligned, hrow⟩ => address_of_locate aligned hrow, fun h => ?_⟩
  have aligned : a.toNat % 4 = 0 := h.2 ▸ address_mod_four loc
  exact ⟨aligned, (locate_eq_some_iff aligned).mpr h⟩

/-! ### The readable and the writable words -/

theorem readable_of_address {p : Config.Params} {a : Nat} {loc : Loc} (h : loc.Mapped p) (ha : a = loc.address) :
    Readable p a := by
  have hdmax := dmax_eq p
  unfold Readable Writable
  cases loc <;> simp only [Loc.Mapped, Loc.address] at h ha <;> omega

theorem writable_iff_of_address {p : Config.Params} {a : Nat} {loc : Loc} (h : loc.Mapped p) (ha : a = loc.address) :
    Writable p a ↔ loc.readOnly = false := by
  have hmax := dmax_le_65536 p
  have hdmax := dmax_eq p
  unfold Writable
  cases loc <;> simp only [Loc.Mapped, Loc.address] at h ha <;>
    simp only [Loc.readOnly, reduceCtorEq, iff_true, iff_false] <;> omega

theorem aligned_of_readable {p : Config.Params} {a : Nat} (h : Readable p a) : a % 4 = 0 := by
  obtain ⟨aligned, -⟩ | ⟨aligned, -⟩ := h <;> exact aligned

/-- The map has a row for each readable word (20_memory.md R51). -/
theorem exists_locate_of_readable {p : Config.Params} {a : Nat} (h : Readable p a) : ∃ loc, locate p a = some loc := by
  rw [← Option.ne_none_iff_exists']
  intro hnone
  have hdoutmax := doutmax_eq p
  unfold Readable Writable at h
  simp only [locate, ite_eq_iff, reduceCtorEq, and_false, false_or, and_true] at hnone
  omega

theorem reach_ok_iff_readable {p : Config.Params} {a : Addr} {n : Nat} :
    (∃ loc, reach p a n = .ok loc) ↔ n = 4 ∧ Readable p a.toNat := by
  simp only [reach_eq_ok_iff_address]
  constructor
  · rintro ⟨loc, size, mapped, haddr⟩
    exact ⟨size, readable_of_address mapped haddr⟩
  · rintro ⟨size, readable⟩
    obtain ⟨loc, hrow⟩ := exists_locate_of_readable readable
    exact ⟨loc, size, address_of_locate (aligned_of_readable readable) hrow⟩

theorem reachForWrite_ok_iff_writable {p : Config.Params} {a : Addr} {n : Nat} :
    (∃ loc, reachForWrite p a n = .ok loc) ↔ n = 4 ∧ Writable p a.toNat := by
  simp only [reachForWrite_eq_ok, reach_eq_ok_iff_address]
  constructor
  · rintro ⟨loc, ⟨size, mapped, haddr⟩, hrw⟩
    exact ⟨size, (writable_iff_of_address mapped haddr).mpr hrw⟩
  · rintro ⟨size, writable⟩
    obtain ⟨loc, hreach⟩ := reach_ok_iff_readable.mpr ⟨size, .inl writable⟩
    obtain ⟨-, mapped, haddr⟩ := reach_eq_ok_iff_address.mp hreach
    exact ⟨loc, ⟨size, mapped, haddr⟩, (writable_iff_of_address mapped haddr).mp writable⟩

/-! ### Which accesses the bus takes -/

theorem exec_answers (i : Instr) (s : State) : ∃ t, exec i s = .next t := by
  obtain ⟨t, -, ht, -⟩ := exec_sameRun (ReadsSame.refl i s)
  exact ⟨t, ht⟩

theorem runCommand_answers (w : Word32) (s : State) : ∃ t, runCommand w s = .next t := by
  unfold runCommand
  cases decode w with
  | error r => exact ⟨_, rfl⟩
  | ok i => exact exec_answers i s

/-- The access at `a` is taken where `P` holds and refused with a bus error where it does not (20_memory.md R54). -/
structure TakenIff (a : Addr) (o : Result) (P : Prop) : Prop where
  taken : P → ∃ t, o = .next t
  refused : ¬ P → ∃ why, o = .fault (.busError a why)

section TakenIff

variable {a : Addr} {o : Result} {P : Prop}

theorem TakenIff.next_iff (h : TakenIff a o P) : (∃ t, o = .next t) ↔ P := by
  refine ⟨fun ⟨t, hnext⟩ => by_contra fun hnot => ?_, h.taken⟩
  obtain ⟨why, hfault⟩ := h.refused hnot
  exact nomatch hnext.symm.trans hfault

theorem TakenIff.fault_iff (h : TakenIff a o P) : (∃ why, o = .fault (.busError a why)) ↔ ¬ P := by
  refine ⟨fun ⟨why, hfault⟩ hP => ?_, h.refused⟩
  obtain ⟨t, hnext⟩ := h.taken hP
  exact nomatch hnext.symm.trans hfault

end TakenIff

theorem busRead_takenIff_reach (a : Addr) (n : Nat) (s : State) :
    TakenIff a (busRead a n s) (∃ loc, reach s.par a n = .ok loc) := by
  refine ⟨fun ⟨loc, hit⟩ => ⟨_, busRead_eq hit⟩, fun hmiss => ?_⟩
  cases hit : reach s.par a n with
  | ok loc => exact absurd ⟨loc, hit⟩ hmiss
  | error why => exact ⟨why, by rw [busRead, hit]⟩

theorem busWrite_takenIff_reach (a : Addr) (n : Nat) (v : Word32) (s : State) :
    TakenIff a (busWrite a n v s) (∃ loc, reachForWrite s.par a n = .ok loc) := by
  refine ⟨fun ⟨loc, hit⟩ => ?_, fun hmiss => ?_⟩
  · by_cases hcmd : loc = .cmd
    · subst hcmd
      rw [busWrite, hit]
      exact runCommand_answers v _
    · exact ⟨_, busWrite_eq hit hcmd⟩
  · cases hit : reachForWrite s.par a n with
    | ok loc => exact absurd ⟨loc, hit⟩ hmiss
    | error why => exact ⟨why, by rw [busWrite, hit]⟩

theorem step_read {s : State} {a : Addr} {n : Nat} {rest : List HostEvent} (h : Issued s (.read a n) rest) :
    step s = busRead a n { s with bus := rest } := by
  obtain ⟨hbus, hreset⟩ := h
  rw [step_cons hbus]
  exact if_neg (by simp [hreset])

theorem step_write {s : State} {a : Addr} {n : Nat} {v : Word32} {rest : List HostEvent}
    (h : Issued s (.write a n v) rest) : step s = busWrite a n v { s with bus := rest } := by
  obtain ⟨hbus, hreset⟩ := h
  rw [step_cons hbus]
  exact if_neg (by simp [hreset])

theorem step_read_takenIff {s : State} {a : Addr} {n : Nat} {rest : List HostEvent}
    (h : Issued s (.read a n) rest) : TakenIff a (step s) (n = 4 ∧ Readable s.par a.toNat) := by
  rw [step_read h, ← reach_ok_iff_readable]
  exact busRead_takenIff_reach a n { s with bus := rest }

theorem step_write_takenIff {s : State} {a : Addr} {n : Nat} {v : Word32} {rest : List HostEvent}
    (h : Issued s (.write a n v) rest) : TakenIff a (step s) (n = 4 ∧ Writable s.par a.toNat) := by
  rw [step_write h, ← reachForWrite_ok_iff_writable]
  exact busWrite_takenIff_reach a n v { s with bus := rest }

/-- Settles O9: the bus takes an access exactly where it reaches a location, and the locations are the words of the
map. -/
theorem refusedAccessesFault : Obligations.RefusedAccessesFault := by
  intro s rest a size v
  refine ⟨fun hread => ?_, fun hwrite => ?_⟩
  · have hiff := step_read_takenIff hread
    exact ⟨hiff.next_iff, hiff.fault_iff⟩
  · have hiff := step_write_takenIff hwrite
    exact ⟨hiff.next_iff, hiff.fault_iff⟩

/-! ### Accepted events -/

theorem toBool_eq_true_iff {ε α : Type} {x : Except ε α} : x.toBool = true ↔ ∃ a, x = .ok a := by
  cases x <;> simp [Except.toBool]

/-- One event answers a next state exactly when it is accepted (20_memory.md R54, 70_reset_and_hazards.md R190). -/
theorem hostEvent_answers_iff (e : HostEvent) (s : State) :
    (∃ t, hostEvent e s = .next t) ↔ e.accepted s = true := by
  cases e with
  | resetInput level => exact ⟨fun _ => rfl, fun _ => ⟨_, rfl⟩⟩
  | read a n =>
    cases hreset : s.inReset with
    | true => simp [hostEvent, HostEvent.accepted, hreset]
    | false =>
      simpa [hostEvent, HostEvent.accepted, hreset, toBool_eq_true_iff] using (busRead_takenIff_reach a n s).next_iff
  | write a n v =>
    cases hreset : s.inReset with
    | true => simp [hostEvent, HostEvent.accepted, hreset]
    | false =>
      simpa [hostEvent, HostEvent.accepted, hreset, toBool_eq_true_iff] using (busWrite_takenIff_reach a n v s).next_iff

/-- What the bus still holds does not decide whether an event is accepted. -/
theorem accepted_with_bus (e : HostEvent) (s : State) (rest : List HostEvent) :
    e.accepted { s with bus := rest } = e.accepted s := by
  cases e <;> rfl

/-- Settles O11: with no event the step holds the state, and an event is answered exactly when it is accepted. -/
theorem anAcceptedEventIsASafeStep : Obligations.AnAcceptedEventIsASafeStep := by
  intro s
  unfold SafeStep
  cases hbus : s.bus with
  | nil => exact ⟨fun _ => ⟨s, by rw [step, hostStep, hbus]⟩, fun _ => nofun⟩
  | cons e rest =>
    rw [step_cons hbus, hostEvent_answers_iff, accepted_with_bus]
    refine ⟨fun haccepted => haccepted e rest rfl, fun haccepted e' rest' heq => ?_⟩
    cases heq
    exact haccepted

/-! ### Words of a multiword register -/

theorem eq_readWord {c j : Nat} {x : BitVec c} {v : Word32} (h : v.toNat = x.toNat / 2 ^ (32 * j) % 2 ^ 32) :
    v = readWord x j := by
  apply BitVec.eq_of_toNat_eq
  rw [h, readWord, BitVec.extractLsb'_toNat, Nat.shiftRight_eq_div_pow]

theorem eq_traceEntry {l : List Word32} {i : Nat} {v : Word32} (h : v = l[i]?.getD 0#32) : v = traceEntry l i := by
  rw [h, traceEntry, List.getD_eq_getElem?_getD]

/-- A word moved to the place of word `j` (20_memory.md R55). -/
theorem getLsbD_word_at {c j b : Nat} (v : Word32) (hb : b < c) :
    ((v.setWidth c) <<< (32 * j)).getLsbD b = (decide (b / 32 = j) && v.getLsbD (b % 32)) := by
  by_cases hj : b / 32 = j
  · have hbit : b - 32 * j = b % 32 := by omega
    have hge : ¬ b < 32 * j := by omega
    simp [hb, hj, hbit, hge]
  · by_cases hlt : b < 32 * j
    · simp [hlt, hj]
    · simp [hj, BitVec.getLsbD_of_ge v (b - 32 * j) (by omega)]

theorem getLsbD_wordMask {c j b : Nat} (hb : b < c) : (wordMask c j).getLsbD b = decide (b / 32 = j) := by
  rw [wordMask, getLsbD_word_at _ hb, BitVec.getLsbD_allOnes, decide_eq_true (Nat.mod_lt b (by decide)), Bool.and_true]

/-- A write to word `j` is what R53 says of it, bit by bit. -/
theorem wordReplaced_writeWord {c : Nat} (x : BitVec c) (j : Nat) (v : Word32) :
    WordReplaced x j v (writeWord x j v) := by
  intro b hb
  rw [writeWord, BitVec.getLsbD_or, BitVec.getLsbD_and, BitVec.getLsbD_not, getLsbD_wordMask hb, getLsbD_word_at v hb]
  by_cases hj : b / 32 = j
  · simp [hj]
  · simp [hj, hb]

/-! ### Reads and writes -/

/-- The statement's table of words is the model's reading of the location at the address (20_memory.md R52). -/
theorem exists_read_of_mappedWord {s : State} {a : Nat} {v : Word32} (h : MappedWord s a v) :
    ∃ loc : Loc, loc.Mapped s.par ∧ a = loc.address ∧ v = loc.read s := by
  obtain ⟨ha, hv⟩ | ⟨ha, hv⟩ | ⟨ha, hv⟩ | ⟨ha, hv⟩ | ⟨ha, hv⟩ | ⟨ha, hv⟩ | ⟨ha, hv⟩ | ⟨ha, hv⟩ | ⟨j, hj, ha, hv⟩ |
    ⟨j, hj, ha, hv⟩ | ⟨j, hj, ha, hv⟩ | ⟨ha, hv⟩ | ⟨ha, hv⟩ | ⟨i, hi, ha, hv⟩ | ⟨i, hi, ha, hv⟩ | ⟨j, hj, ha, hv⟩ |
    ⟨j, hj, ha, hv⟩ := h
  · exact ⟨.cmd, trivial, ha, hv⟩
  · exact ⟨.status, trivial, ha, hv⟩
  · exact ⟨.keyW, trivial, ha, hv⟩
  · exact ⟨.nonceW, trivial, ha, hv⟩
  · exact ⟨.ctrW, trivial, ha, hv⟩
  · exact ⟨.auxW, trivial, ha, hv⟩
  · exact ⟨.dinW, trivial, ha, hv⟩
  · exact ⟨.doutW, trivial, ha, hv⟩
  · exact ⟨.key j, hj, ha, eq_readWord hv⟩
  · exact ⟨.nonce j, hj, ha, eq_readWord hv⟩
  · exact ⟨.ctr j, hj, ha, eq_readWord hv⟩
  · exact ⟨.aux, trivial, ha, hv⟩
  · exact ⟨.trN, trivial, ha, hv⟩
  · exact ⟨.trl i, hi, ha, eq_traceEntry hv⟩
  · exact ⟨.trr i, hi, ha, eq_traceEntry hv⟩
  · exact ⟨.din j, hj, ha, eq_readWord hv⟩
  · exact ⟨.dout j, hj, ha, eq_readWord hv⟩

/-- What is read at a location does not depend on what the bus still holds. -/
theorem Loc.read_with_bus (loc : Loc) (s : State) (rest : List HostEvent) :
    loc.read { s with bus := rest } = loc.read s := by
  cases loc <;> rfl

/-- Settles O7: a mapped word is the reading of one location, which the bus reaches. -/
theorem aBusReadReturnsTheMappedWord : Obligations.ABusReadReturnsTheMappedWord := by
  intro s rest a size hread
  refine ⟨fun hsize v hword => ?_, (step_read_takenIff hread).refused⟩
  obtain ⟨loc, mapped, haddr, rfl⟩ := exists_read_of_mappedWord hword
  have hreach : reach s.par a size = .ok loc := reach_eq_ok_iff_address.mpr ⟨hsize, mapped, haddr⟩
  rw [step_read hread, busRead_eq (s := { s with bus := rest }) hreach,
    Loc.read_with_bus]

/-- A state is what a write leaves if it is what the model writes at the location with the address (20_memory.md
R53). -/
theorem stored_of_write {s t : State} {a : Nat} {v : Word32}
    (h : ∀ loc : Loc, loc.Mapped s.par → a = loc.address → t = loc.write s v) : Stored s a v t :=
  ⟨h .keyW trivial, h .nonceW trivial, h .ctrW trivial, h .auxW trivial, h .dinW trivial, h .aux trivial,
    fun j hj ha => ⟨_, wordReplaced_writeWord s.key j v, h (.key j) hj ha⟩,
    fun j hj ha => ⟨_, wordReplaced_writeWord s.nonce j v, h (.nonce j) hj ha⟩,
    fun j hj ha => ⟨_, wordReplaced_writeWord s.ctr j v, h (.ctr j) hj ha⟩,
    fun j hj ha => ⟨_, wordReplaced_writeWord s.din j v, h (.din j) hj ha⟩⟩

/-- Settles O8: the bus reaches the one location with the address, and writes it; at address 0 that is `CMD`. -/
theorem aBusWriteReplacesOneWord : Obligations.ABusWriteReplacesOneWord := by
  intro s rest a size v hwrite
  refine ⟨fun hsize hwritable hnotCmd => ?_, fun hsize hcmd => ?_, (step_write_takenIff hwrite).refused⟩
  · obtain ⟨loc, hit⟩ := reachForWrite_ok_iff_writable.mpr ⟨hsize, hwritable⟩
    obtain ⟨hreach, -⟩ := reachForWrite_eq_ok.mp hit
    obtain ⟨-, mapped, haddr⟩ := reach_eq_ok_iff_address.mp hreach
    have hloc : loc ≠ .cmd := by
      rintro rfl
      exact hnotCmd (BitVec.eq_of_toNat_eq haddr)
    refine ⟨loc.write { s with bus := rest } v, ?_, stored_of_write fun m hm hma => ?_⟩
    · rw [step_write hwrite, busWrite_eq (s := { s with bus := rest }) hit hloc]
    · rw [address_injective mapped hm (haddr.symm.trans hma)]
  · subst hsize hcmd
    rw [step_write hwrite, busWrite_cmd]

end Sys2Proof.Machine

/-! PROOFS of the family of the encoding (30_encoding.md). The idea they share: what the decoder and the encoder do with
one row of the opcode table is said once (`IsRow`), by format; each of the 23 rows is such a row (`isRow_of_mem`), and
a word of no row's opcode is the decoder's last arm. -/

namespace Sys2Proof

open Sys2Proof.Machine Sys2Proof.Claims

/-! ### Slices and masks -/

/-- The word of width `c` whose bits `lo` to `lo + n - 1` are 1 and whose other bits are 0. -/
def sliceMask (c lo n : Nat) : BitVec c := (BitVec.allOnes n).setWidth c <<< lo

theorem getLsbD_sliceMask {c lo n i : Nat} (hi : i < c) :
    (sliceMask c lo n).getLsbD i = decide (lo ≤ i ∧ i < lo + n) := by
  by_cases hlo : lo ≤ i
  · have hlt : i - lo < c := by omega
    have hiff : i - lo < n ↔ i < lo + n := by omega
    simp [sliceMask, hi, hlo, hiff]
  · simp [sliceMask, hlo, Nat.lt_of_not_le hlo]

/-- Two words agree under a slice's mask exactly when the slices are equal. -/
theorem and_sliceMask_eq_iff {c lo n : Nat} (x y : BitVec c) (h : lo + n ≤ c) :
    x &&& sliceMask c lo n = y &&& sliceMask c lo n ↔ x.extractLsb' lo n = y.extractLsb' lo n := by
  constructor
  · intro heq
    apply BitVec.eq_of_getLsbD_eq
    intro i hi
    have hbit := congrArg (·.getLsbD (lo + i)) heq
    simpa [getLsbD_sliceMask (show lo + i < c by omega), hi] using hbit
  · intro heq
    apply BitVec.eq_of_getLsbD_eq
    intro i hi
    rw [BitVec.getLsbD_and, BitVec.getLsbD_and, getLsbD_sliceMask hi]
    by_cases hin : lo ≤ i ∧ i < lo + n
    · have hbit := congrArg (·.getLsbD (i - lo)) heq
      have hlt : i - lo < n := by omega
      simpa [hin, hlt] using hbit
    · simp [hin]

theorem and_sliceMask_eq_zero_iff {c lo n : Nat} (x : BitVec c) (h : lo + n ≤ c) :
    x &&& sliceMask c lo n = 0#c ↔ x.extractLsb' lo n = 0#n := by
  simpa using and_sliceMask_eq_iff x 0#c h

/-- A match under two masks, the pattern lying under the first of them. -/
theorem and_or_eq_iff {c : Nat} {x a b p : BitVec c} (ha : p &&& a = p) (hb : p &&& b = 0#c) :
    x &&& (a ||| b) = p ↔ x &&& a = p ∧ x &&& b = 0#c := by
  constructor
  · intro h
    have hunder (m : BitVec c) (hm : (a ||| b) &&& m = m) : x &&& m = p &&& m := by
      rw [← h, BitVec.and_assoc, hm]
    exact ⟨(hunder a (by ext; simp; tauto)).trans ha, (hunder b (by ext; simp; tauto)).trans hb⟩
  · rintro ⟨hxa, hxb⟩
    rw [BitVec.and_or_distrib_left, hxa, hxb, BitVec.or_zero]

/-! ### The fields of a word -/

theorem rndField_eq_rndOf (w : Word32) : rndField w = rndOf w := by
  rw [rndField, rndOf, BitVec.extractLsb'_toNat, Nat.shiftRight_eq_div_pow]

/-- `RND` is an 8-bit field (30_encoding.md R71). -/
theorem rndOf_lt (w : Word32) : rndOf w < 256 := Nat.mod_lt _ (by decide)

/-- A one-bit slice is 1 exactly when its bit is set. -/
theorem extract_bit_beq_one (w : Word32) (i : Nat) : (w.extractLsb' i 1 == 1#1) = w.getLsbD i := by
  rw [BitVec.getLsbD_eq_extractLsb']

theorem ecbField_eq_flagE (w : Word32) : ecbField w = flagE w := extract_bit_beq_one w 0

theorem variantField_eq_variantOf (w : Word32) : variantField w = variantOf w := by
  rw [variantField, variantOf, extract_bit_beq_one]

theorem indexField_eq_indexOf (w : Word32) (lo : Nat) : indexField w lo = indexOf w lo := by
  apply Fin.ext
  rw [indexField, BitVec.val_toFin, BitVec.extractLsb'_toNat, Nat.shiftRight_eq_div_pow]
  rfl

/-- A slice is the slice of its upper bits beside that of its lower `m` bits. -/
theorem extract_split (w : Word32) (lo m n : Nat) :
    w.extractLsb' lo (n + m) = w.extractLsb' (lo + m) n ++ w.extractLsb' lo m :=
  (BitVec.extractLsb'_append_extractLsb'_eq_extractLsb' rfl).symm

/-- A word is packed from its own three fields (30_encoding.md R71). -/
theorem packFields_eq_of_fields {w : Word32} {o : BitVec 8} {r : Nat} {a : BitVec 16} (opc : opcField w = o)
    (rnd : rndField w = r) (arg : w.extractLsb' 0 16 = a) : packFields o r a = w := by
  subst opc rnd arg
  rw [packFields, opcField, rndField, BitVec.ofNat_toNat, BitVec.setWidth_eq, ← extract_split w 0 16 8,
    ← extract_split w 0 24 8]
  exact BitVec.extractLsb'_eq_self

/-! ### The field `ARG` of a word with clear MBZ bits -/

theorem arg_of_mbzClear_n {w : Word32} (h : mbzClear .n w = true) : w.extractLsb' 0 16 = 0#16 := by
  simpa [mbzClear] using h

theorem arg_of_mbzClear_ne {w : Word32} (h : mbzClear .ne w = true) : w.extractLsb' 0 16 = argE (ecbField w) := by
  have hhigh : w.extractLsb' 1 15 = 0#15 := by simpa [mbzClear] using h
  rw [extract_split w 0 1 15, hhigh, ecbField]
  generalize w.extractLsb' 0 1 = e
  revert e
  decide

theorem arg_of_mbzClear_nv {w : Word32} (h : mbzClear .nv w = true) :
    w.extractLsb' 0 16 = argV (variantField w) := by
  obtain ⟨hhigh, hlow⟩ : w.extractLsb' 2 14 = 0#14 ∧ w.extractLsb' 0 1 = 0#1 := by simpa [mbzClear] using h
  rw [extract_split w 0 2 14, extract_split w 0 1 1, hhigh, hlow, variantField]
  generalize w.extractLsb' 1 1 = v
  revert v
  decide

theorem indexBits_indexField (w : Word32) (lo : Nat) : indexBits (indexField w lo) = w.extractLsb' lo 4 := by
  rw [indexBits, indexField, BitVec.val_toFin, BitVec.ofNat_toNat, BitVec.setWidth_eq]

theorem arg_eq_argX (w : Word32) :
    w.extractLsb' 0 16 = argX (indexField w 12) (indexField w 8) (indexField w 4) (indexField w 0) := by
  simp only [argX, indexBits_indexField]
  rw [extract_split w 0 12 4, extract_split w 0 8 4, extract_split w 0 4 4]

/-! ### The MBZ bits of a format as a mask -/

/-- The bits a format marks MBZ (30_encoding.md R72 to R76). -/
def Format.mbzMask : Format → Word32
  | .z => sliceMask 32 0 24
  | .n => sliceMask 32 0 16
  | .ne => sliceMask 32 1 15
  | .nv => sliceMask 32 2 14 ||| sliceMask 32 0 1
  | .x => sliceMask 32 16 8

theorem mbzClear_iff_and_mbzMask (f : Format) (w : Word32) : mbzClear f w = true ↔ w &&& f.mbzMask = 0#32 := by
  cases f with
  | nv =>
    rw [Format.mbzMask, BitVec.and_or_distrib_left, BitVec.or_eq_zero_iff, and_sliceMask_eq_zero_iff w (by decide),
      and_sliceMask_eq_zero_iff w (by decide), mbzClear, Bool.and_eq_true, beq_iff_eq, beq_iff_eq]
  | z | n | ne | x =>
    rw [Format.mbzMask, and_sliceMask_eq_zero_iff w (by decide), mbzClear, beq_iff_eq]

/-- The word of an opcode alone has clear MBZ bits in every format. -/
theorem mbzClear_opcode_word (f : Format) (o : BitVec 8) : mbzClear f (packFields o 0 0#16) = true := by
  cases f with
  | z => exact mbzClear_z o
  | n => exact mbzClear_n o 0
  | ne => exact mbzClear_ne o 0 false
  | nv => exact mbzClear_nv o 0 .djb
  | x => exact mbzClear_x o 0#16

/-- The bits of the opcode, for the mask `0xFF000000` of the statements. -/
theorem and_opcode_mask_iff (w : Word32) (o : BitVec 8) :
    w &&& 0xFF000000#32 = packFields o 0 0#16 ↔ opcField w = o := by
  have hself : packFields o 0 0#16 &&& sliceMask 32 24 8 = packFields o 0 0#16 := by
    show (o ++ 0#24 : BitVec (8 + 24)) &&& (0xFF#8 ++ 0#24) = o ++ 0#24
    rw [BitVec.and_append, show 0xFF#8 = BitVec.allOnes 8 by rfl, BitVec.and_allOnes, BitVec.and_zero]
  rw [show 0xFF000000#32 = sliceMask 32 24 8 by decide, ← hself, and_sliceMask_eq_iff w _ (by decide)]
  exact Eq.congr_right (opcField_packFields o 0 0#16)

/-! ### One row of the opcode table -/

/-- `row` is the row of the opcode `o` in the format `f`: what decoder and encoder do with its words. -/
structure IsRow (row : OpcodeRow) (o : BitVec 8) (f : Format) : Prop where
  pattern : row.pattern = packFields o 0 0#16
  mask : row.mask = 0xFF000000#32 ||| f.mbzMask
  decode_eq : ∀ w, opcField w = o → decode w = decodeRow f w (row.command w)
  encode_eq : ∀ w, opcField w = o → mbzClear f w = true → encode (row.command w) = w
  wellFormed : ∀ w, (row.command w).wellFormed = true

section IsRow

variable {row : OpcodeRow} {o : BitVec 8} {f : Format} {w : Word32}

theorem IsRow.opcode_iff (h : IsRow row o f) : w &&& 0xFF000000#32 = row.pattern ↔ opcField w = o := by
  rw [h.pattern, and_opcode_mask_iff]

/-- A word matches a row by its opcode and its clear MBZ bits. -/
theorem IsRow.matches_iff (h : IsRow row o f) : row.Matches w = true ↔ opcField w = o ∧ mbzClear f w = true := by
  have hopc : row.pattern &&& 0xFF000000#32 = row.pattern := by
    rw [h.opcode_iff, h.pattern, opcField_packFields]
  have hmbz : row.pattern &&& f.mbzMask = 0#32 := by
    rw [← mbzClear_iff_and_mbzMask, h.pattern, mbzClear_opcode_word]
  rw [OpcodeRow.Matches, beq_iff_eq, h.mask, and_or_eq_iff hopc hmbz, h.opcode_iff, mbzClear_iff_and_mbzMask]

end IsRow

theorem wellFormed_of_rnd? {i : Instr} {n : Nat} (h : i.rnd? = some n) (hn : n < 256) : i.wellFormed = true := by
  simp [Instr.wellFormed, h, hn]

/-! A row is such a row by what the decoder's arm and the encoder's arm of its command say. Both, and the pattern, are
read off the definitions at each row (the default proofs of the hypotheses). -/

theorem isRow_z {p : Word32} (o : BitVec 8) (i : Instr) (hp : p = packFields o 0 0#16 := by decide)
    (hdec : ∀ w, opcField w = o → decode w = decodeRow .z w i := by intro w h; rw [decode, h]; rfl)
    (henc : encode i = packFields o 0 0#16 := by rfl) (hrnd : i.rnd? = none := by rfl) :
    IsRow ⟨p, 0xFFFFFFFF#32, fun _ => i⟩ o .z where
  pattern := hp
  mask := (by decide : 0xFFFFFFFF#32 = 0xFF000000#32 ||| Format.mbzMask .z)
  decode_eq := hdec
  encode_eq w hopc hmbz :=
    calc
      encode i = w &&& 0xFF000000#32 ||| w &&& Format.mbzMask .z := by
        rw [henc, (and_opcode_mask_iff w o).mpr hopc, (mbzClear_iff_and_mbzMask .z w).mp hmbz, BitVec.or_zero]
      _ = w := by
        rw [← BitVec.and_or_distrib_left, show 0xFF000000#32 ||| Format.mbzMask .z = BitVec.allOnes 32 by decide,
          BitVec.and_allOnes]
  wellFormed w := by simp [Instr.wellFormed, hrnd]

theorem isRow_n {p : Word32} (o : BitVec 8) (c : Nat → Instr) (hp : p = packFields o 0 0#16 := by decide)
    (hdec : ∀ w, opcField w = o → decode w = decodeRow .n w (c (rndField w)) := by intro w h; rw [decode, h]; rfl)
    (henc : ∀ r, encode (c r) = packFields o r 0#16 := by intro _; rfl)
    (hrnd : ∀ r, (c r).rnd? = some r := by intro _; rfl) :
    IsRow ⟨p, 0xFF00FFFF#32, fun w => c (rndOf w)⟩ o .n where
  pattern := hp
  mask := (by decide : 0xFF00FFFF#32 = 0xFF000000#32 ||| Format.mbzMask .n)
  decode_eq w hopc := by rw [hdec w hopc, rndField_eq_rndOf]
  encode_eq w hopc hmbz := by
    rw [henc, packFields_eq_of_fields hopc (rndField_eq_rndOf w) (arg_of_mbzClear_n hmbz)]
  wellFormed w := wellFormed_of_rnd? (hrnd _) (rndOf_lt w)

theorem isRow_ne {p : Word32} (o : BitVec 8) (c : Nat → Bool → Instr) (hp : p = packFields o 0 0#16 := by decide)
    (hdec : ∀ w, opcField w = o → decode w = decodeRow .ne w (c (rndField w) (ecbField w)) := by
      intro w h; rw [decode, h]; rfl)
    (henc : ∀ r e, encode (c r e) = packFields o r (argE e) := by intro _ _; rfl)
    (hrnd : ∀ r e, (c r e).rnd? = some r := by intro _ _; rfl) :
    IsRow ⟨p, 0xFF00FFFE#32, fun w => c (rndOf w) (flagE w)⟩ o .ne where
  pattern := hp
  mask := (by decide : 0xFF00FFFE#32 = 0xFF000000#32 ||| Format.mbzMask .ne)
  decode_eq w hopc := by rw [hdec w hopc, rndField_eq_rndOf, ecbField_eq_flagE]
  encode_eq w hopc hmbz := by
    rw [henc, ← ecbField_eq_flagE,
      packFields_eq_of_fields hopc (rndField_eq_rndOf w) (arg_of_mbzClear_ne hmbz)]
  wellFormed w := wellFormed_of_rnd? (hrnd _ _) (rndOf_lt w)

theorem isRow_nv {p : Word32} (o : BitVec 8) (c : Nat → Variant → Instr) (hp : p = packFields o 0 0#16 := by decide)
    (hdec : ∀ w, opcField w = o → decode w = decodeRow .nv w (c (rndField w) (variantField w)) := by
      intro w h; rw [decode, h]; rfl)
    (henc : ∀ r v, encode (c r v) = packFields o r (argV v) := by intro _ _; rfl)
    (hrnd : ∀ r v, (c r v).rnd? = some r := by intro _ _; rfl) :
    IsRow ⟨p, 0xFF00FFFD#32, fun w => c (rndOf w) (variantOf w)⟩ o .nv where
  pattern := hp
  mask := (by decide : 0xFF00FFFD#32 = 0xFF000000#32 ||| Format.mbzMask .nv)
  decode_eq w hopc := by rw [hdec w hopc, rndField_eq_rndOf, variantField_eq_variantOf]
  encode_eq w hopc hmbz := by
    rw [henc, ← variantField_eq_variantOf,
      packFields_eq_of_fields hopc (rndField_eq_rndOf w) (arg_of_mbzClear_nv hmbz)]
  wellFormed w := wellFormed_of_rnd? (hrnd _ _) (rndOf_lt w)

/-- `CHACHA.QRS` is the one row of format X (30_encoding.md R76). -/
theorem isRow_chachaQrs :
    IsRow ⟨0x31000000#32, 0xFFFF0000#32,
      fun w => .chachaQrs (indexOf w 12) (indexOf w 8) (indexOf w 4) (indexOf w 0)⟩ 0x31#8 .x where
  pattern := by decide
  mask := by decide
  decode_eq w hopc := by
    rw [decode, hopc]
    simp only [← indexField_eq_indexOf]
    rfl
  encode_eq w hopc hmbz := by
    have hrnd : rndField w = 0 := by
      rw [mbzClear, beq_iff_eq] at hmbz
      rw [rndField, hmbz]
      rfl
    simp only [← indexField_eq_indexOf]
    exact packFields_eq_of_fields hopc hrnd (arg_eq_argX w)
  wellFormed _ := rfl

/-- The 23 rows of the opcode map, each with its opcode and its format (30_encoding.md R78). -/
theorem isRow_of_mem : ∀ row ∈ opcodeTable, ∃ o f, IsRow row o f := by
  simp only [opcodeTable, List.forall_mem_cons]
  exact ⟨⟨_, _, isRow_z 0x10#8 .fealS0⟩, ⟨_, _, isRow_z 0x11#8 .fealS1⟩, ⟨_, _, isRow_z 0x12#8 .fealF⟩,
    ⟨_, _, isRow_z 0x13#8 .fealFk⟩, ⟨_, _, isRow_n 0x14#8 .fealKs⟩, ⟨_, _, isRow_ne 0x15#8 .fealEnc⟩,
    ⟨_, _, isRow_ne 0x16#8 .fealDec⟩,
    ⟨_, _, isRow_z 0x20#8 .salsaQr⟩, ⟨_, _, isRow_z 0x21#8 .salsaRr⟩, ⟨_, _, isRow_z 0x22#8 .salsaCr⟩,
    ⟨_, _, isRow_z 0x23#8 .salsaDr⟩, ⟨_, _, isRow_n 0x24#8 .salsaHash⟩, ⟨_, _, isRow_n 0x25#8 .salsaExp⟩,
    ⟨_, _, isRow_n 0x26#8 .salsaXcrypt⟩, ⟨_, _, isRow_n 0x27#8 .salsaEnc⟩, ⟨_, _, isRow_n 0x28#8 .salsaDec⟩,
    ⟨_, _, isRow_z 0x30#8 .chachaQr⟩, ⟨_, _, isRow_chachaQrs⟩, ⟨_, _, isRow_n 0x32#8 .chachaHash⟩,
    ⟨_, _, isRow_nv 0x33#8 .chachaExp⟩, ⟨_, _, isRow_nv 0x34#8 .chachaXcrypt⟩, ⟨_, _, isRow_nv 0x35#8 .chachaEnc⟩,
    ⟨_, _, isRow_nv 0x36#8 .chachaDec⟩, nofun⟩

/-! ### The decoder on every word -/

/-- A word that matches a row is that row's command. -/
theorem decode_of_matches {w : Word32} {row : OpcodeRow} (hrow : row ∈ opcodeTable) (hmatch : row.Matches w = true) :
    decode w = .ok (row.command w) := by
  obtain ⟨o, f, isRow⟩ := isRow_of_mem row hrow
  obtain ⟨hopc, hmbz⟩ := isRow.matches_iff.mp hmatch
  rw [isRow.decode_eq w hopc, decodeRow, if_pos hmbz]

theorem exists_row_of_legal {w : Word32} (h : legalWord w = true) : ∃ row ∈ opcodeTable, row.Matches w = true :=
  List.any_eq_true.mp h

theorem decode_of_legal {w : Word32} (h : legalWord w = true) : ∃ i, decode w = .ok i := by
  obtain ⟨row, hrow, hmatch⟩ := exists_row_of_legal h
  exact ⟨_, decode_of_matches hrow hmatch⟩

/-- A word of a known opcode that matches no row has an MBZ bit set. -/
theorem decode_of_not_legal {w : Word32} (hknown : knownOpcode w = true) (hillegal : legalWord w = false) :
    decode w = .error .mbz := by
  obtain ⟨row, hrow, hopcode⟩ := List.any_eq_true.mp hknown
  obtain ⟨o, f, isRow⟩ := isRow_of_mem row hrow
  have hopc := isRow.opcode_iff.mp (beq_iff_eq.mp hopcode)
  have hmbz : ¬ mbzClear f w = true := fun hclear =>
    List.any_eq_false.mp hillegal row hrow (isRow.matches_iff.mpr ⟨hopc, hclear⟩)
  rw [isRow.decode_eq w hopc, decodeRow, if_neg hmbz]

/-- Whether an opcode is known is seen from the opcode alone. -/
theorem knownOpcode_eq_of_opcField {w : Word32} {n : Nat} (h : (opcField w).toNat = n) :
    knownOpcode w = knownOpcode (packFields (BitVec.ofNat 8 n) 0 0#16) := by
  subst h
  have hmask : w &&& 0xFF000000#32 = packFields (opcField w) 0 0#16 := (and_opcode_mask_iff w _).mpr rfl
  have hself := (and_opcode_mask_iff (packFields (opcField w) 0 0#16) _).mpr (opcField_packFields _ _ _)
  rw [BitVec.ofNat_toNat, BitVec.setWidth_eq, knownOpcode, knownOpcode, hmask, hself]

/-- An opcode outside the map falls through to the decoder's last arm: those of the other arms are known. -/
theorem decode_of_not_known {w : Word32} (hunknown : knownOpcode w = false) : decode w = .error .opc := by
  have hne (n : Nat) (hn : knownOpcode (packFields (BitVec.ofNat 8 n) 0 0#16) = true) : (opcField w).toNat ≠ n := by
    intro hopc
    rw [knownOpcode_eq_of_opcField hopc, hn] at hunknown
    exact nomatch hunknown
  unfold decode
  split
  case h_24 => rfl
  all_goals exact absurd ‹(opcField w).toNat = _› (hne _ (by decide))

/-! ### The statements -/

/-- Settles O12, constructor by constructor: each command's encoding decodes to it (Laws.RoundTrip). -/
theorem decodeOfEncodeIsTheCommand : Obligations.DecodeOfEncodeIsTheCommand := by
  intro i
  cases i with
  | fealS0 => exact Laws.RoundTrip.fealS0
  | fealS1 => exact Laws.RoundTrip.fealS1
  | fealF => exact Laws.RoundTrip.fealF
  | fealFk => exact Laws.RoundTrip.fealFk
  | fealKs rnd => exact Laws.RoundTrip.fealKs rnd
  | fealEnc rnd ecb => exact Laws.RoundTrip.fealEnc rnd ecb
  | fealDec rnd ecb => exact Laws.RoundTrip.fealDec rnd ecb
  | salsaQr => exact Laws.RoundTrip.salsaQr
  | salsaRr => exact Laws.RoundTrip.salsaRr
  | salsaCr => exact Laws.RoundTrip.salsaCr
  | salsaDr => exact Laws.RoundTrip.salsaDr
  | salsaHash rnd => exact Laws.RoundTrip.salsaHash rnd
  | salsaExp rnd => exact Laws.RoundTrip.salsaExp rnd
  | salsaXcrypt rnd => exact Laws.RoundTrip.salsaXcrypt rnd
  | salsaEnc rnd => exact Laws.RoundTrip.salsaEnc rnd
  | salsaDec rnd => exact Laws.RoundTrip.salsaDec rnd
  | chachaQr => exact Laws.RoundTrip.chachaQr
  | chachaQrs i j k l => exact Laws.RoundTrip.chachaQrs i j k l
  | chachaHash rnd => exact Laws.RoundTrip.chachaHash rnd
  | chachaExp rnd v => exact Laws.RoundTrip.chachaExp rnd v
  | chachaXcrypt rnd v => exact Laws.RoundTrip.chachaXcrypt rnd v
  | chachaEnc rnd v => exact Laws.RoundTrip.chachaEnc rnd v
  | chachaDec rnd v => exact Laws.RoundTrip.chachaDec rnd v

/-- Settles O14: the three grounds cover every word, and on each the decoder's answer is another one. -/
theorem decodeAcceptsExactlyTheLegalWords : Obligations.DecodeAcceptsExactlyTheLegalWords := by
  intro w
  have rows : ∀ row ∈ opcodeTable, row.Matches w = true → decode w = .ok (row.command w) :=
    fun _ hrow => decode_of_matches hrow
  cases hknown : knownOpcode w with
  | false =>
    have hdec := decode_of_not_known hknown
    have hillegal : legalWord w = false := by
      by_contra hlegal
      obtain ⟨i, hok⟩ := decode_of_legal (Bool.eq_true_of_not_eq_false hlegal)
      exact nomatch hok.symm.trans hdec
    exact ⟨by simp [hdec], by simp [hdec], by simp [hdec, hillegal], rows⟩
  | true =>
    cases hlegal : legalWord w with
    | false =>
      have hdec := decode_of_not_legal hknown hlegal
      exact ⟨by simp [hdec], by simp [hdec], by simp [hdec], rows⟩
    | true =>
      obtain ⟨i, hdec⟩ := decode_of_legal hlegal
      exact ⟨by simp [hdec], by simp [hdec], by simp [hdec], rows⟩

/-- Settles O13: a word that decodes is legal, so it matches a row, which encodes its commands as their words. -/
theorem encodeOfDecodeIsTheWord : Obligations.EncodeOfDecodeIsTheWord := by
  intro w i hdec
  obtain ⟨-, -, hlegal, -⟩ := decodeAcceptsExactlyTheLegalWords w
  obtain ⟨row, hrow, hmatch⟩ := exists_row_of_legal (hlegal.mp ⟨i, hdec⟩)
  obtain rfl : row.command w = i := Except.ok.inj ((decode_of_matches hrow hmatch).symm.trans hdec)
  obtain ⟨o, f, isRow⟩ := isRow_of_mem row hrow
  obtain ⟨hopc, hmbz⟩ := isRow.matches_iff.mp hmatch
  exact ⟨isRow.wellFormed w, isRow.encode_eq w hopc hmbz⟩

/-- A write to `CMD` stores the word and runs it (30_encoding.md R70). -/
theorem step_command {s : State} {rest : List HostEvent} {w : Word32} (h : Issued s (.write 0x0000#16 4 w) rest) :
    step s = runCommand w { s with bus := rest, cmd := w } := by
  rw [step_write h, busWrite_cmd]

theorem runCommand_of_ok {w : Word32} {i : Instr} (h : decode w = .ok i) (s : State) : runCommand w s = exec i s := by
  rw [runCommand, h]

theorem runCommand_of_error {w : Word32} {r : DecodeReject} (h : decode w = .error r) (s : State) :
    runCommand w s = .next { s with status := failureStatus (rejectError r) } := by
  rw [runCommand, h]
  rfl

/-- Settles O5: a write to `CMD` runs the word, and a word that decodes runs as its command. -/
theorem aStepRunsTheDecodedCommand : Obligations.AStepRunsTheDecodedCommand := by
  intro s rest w i issued hdec
  rw [step_command issued, runCommand_of_ok hdec]

/-- Settles O6: the decoder names the ground, and a rejected word leaves that ground's `STATUS`. -/
theorem anIllegalWordChangesCmdAndStatusOnly : Obligations.AnIllegalWordChangesCmdAndStatusOnly := by
  intro s rest w issued
  rw [step_command issued]
  refine ⟨fun hunknown => ?_, fun hknown hillegal => ?_, fun hlegal => ?_⟩
  · rw [runCommand_of_error (decode_of_not_known hunknown)]
    rfl
  · rw [runCommand_of_error (decode_of_not_legal hknown hillegal)]
    rfl
  · obtain ⟨i, hdec⟩ := decode_of_legal hlegal
    exact ⟨i, hdec, runCommand_of_ok hdec _⟩

/-- Settles O15: the decoder evaluates each of the ten words. -/
theorem theExampleWordsDecode : Obligations.TheExampleWordsDecode := by
  unfold Obligations.TheExampleWordsDecode
  decide

end Sys2Proof

/-! PROOFS of the family of the datapath primitives (40_bitops.md). The idea they share: each primitive only moves bits,
so one lemma per primitive says where a bit or a byte goes, and the inverses are read off those. -/

namespace Sys2Proof.Machine

/-! ### Rotations -/

/-- The two parts of a rotation have no common set bit (40_bitops.md R90). -/
theorem shiftLeft_and_ushiftRight_eq_zero {w s : Nat} (x : BitVec w) : (x <<< s) &&& (x >>> (w - s)) = 0#w := by
  apply BitVec.eq_of_getLsbD_eq
  intro i hi
  by_cases hlow : i < s
  · simp [hlow]
  · have hout : w ≤ w - s + i := by omega
    simp [BitVec.getLsbD_of_ge x _ hout]

theorem rotl_eq_add {w s : Nat} (x : BitVec w) (h : s ≤ w) : rotl x s h = (x <<< s) + (x >>> (w - s)) :=
  (BitVec.add_eq_or_of_and_eq_zero _ _ (shiftLeft_and_ushiftRight_eq_zero x)).symm

theorem toNat_rotl {w s : Nat} (x : BitVec w) (h : s ≤ w) :
    (rotl x s h).toNat = (x.toNat * 2 ^ s + x.toNat / 2 ^ (w - s)) % 2 ^ w := by
  rw [rotl_eq_add, BitVec.toNat_add, BitVec.toNat_shiftLeft, BitVec.toNat_ushiftRight, Nat.shiftLeft_eq,
    Nat.shiftRight_eq_div_pow, Nat.mod_add_mod]

/-- Bit `k` moves up by `s`, and around when that leaves the width (40_bitops.md R90). -/
theorem getLsbD_rotl {w s k : Nat} (x : BitVec w) (h : s ≤ w) (hk : k < w) :
    (rotl x s h).getLsbD ((k + s) % w) = x.getLsbD k := by
  rw [rotl, BitVec.getLsbD_or, BitVec.getLsbD_shiftLeft, BitVec.getLsbD_ushiftRight]
  by_cases hin : k + s < w
  · have hout : w ≤ w - s + (k + s) := by omega
    simp [Nat.mod_eq_of_lt hin, hin, BitVec.getLsbD_of_ge x _ hout]
  · have hmod : (k + s) % w = k + s - w := by
      rw [Nat.mod_eq_sub_mod (by omega), Nat.mod_eq_of_lt (by omega)]
    have hlow : k + s - w < s := by omega
    have hback : w - s + (k + s - w) = k := by omega
    simp [hmod, hlow, hback]

theorem rotr_eq_rotl {w s : Nat} (x : BitVec w) (h : s ≤ w) : rotr x s h = rotl x (w - s) (Nat.sub_le w s) := by
  rw [rotr, rotl, Nat.sub_sub_self h, BitVec.or_comm]

theorem toNat_rotr {w s : Nat} (x : BitVec w) (h : s ≤ w) :
    (rotr x s h).toNat = (x.toNat / 2 ^ s + x.toNat * 2 ^ (w - s)) % 2 ^ w := by
  rw [rotr_eq_rotl, toNat_rotl, Nat.sub_sub_self h, Nat.add_comm]

theorem getLsbD_rotr {w s k : Nat} (x : BitVec w) (h : s ≤ w) (hk : k < w) :
    (rotr x s h).getLsbD k = x.getLsbD ((k + s) % w) := by
  have hback : ((k + s) % w + (w - s)) % w = k := by
    rw [Nat.mod_add_mod, show k + s + (w - s) = k + w by omega, Nat.add_mod_right, Nat.mod_eq_of_lt hk]
  have hmove := getLsbD_rotl x (Nat.sub_le w s) (Nat.mod_lt (k + s) (Nat.zero_lt_of_lt hk))
  rwa [hback, ← rotr_eq_rotl] at hmove

theorem rotr_rotl {w s : Nat} (x : BitVec w) (h : s ≤ w) : rotr (rotl x s h) s h = x := by
  apply BitVec.eq_of_getLsbD_eq
  intro k hk
  rw [getLsbD_rotr _ h hk, getLsbD_rotl x h hk]

/-! ### Byte reversal -/

/-- Byte `j` of the result, counted from the most significant, is byte `j` of `v` from the least (40_bitops.md R93). -/
theorem chunk_le {n j : Nat} (v : BitVec (8 * n)) (hj : j < n) : chunk 8 n (le n v) j = v.extractLsb' (8 * j) 8 :=
  chunk_concatN (fun j => v.extractLsb' (8 * j) 8) n j hj

/-- The same counted from the other end. -/
theorem extractLsb'_le {n j : Nat} (v : BitVec (8 * n)) (hj : j < n) :
    (le n v).extractLsb' (8 * j) 8 = chunk 8 n v j := by
  have hbyte := chunk_le v (show n - 1 - j < n by omega)
  rwa [chunk, show n - 1 - (n - 1 - j) = j by omega] at hbyte

theorem le_le {n : Nat} (v : BitVec (8 * n)) : le n (le n v) = v :=
  calc le n (le n v)
    _ = concatN (chunk 8 n v) n := concatN_congr fun _ hj => extractLsb'_le v hj
    _ = v := concatN_chunk v

/-! ### The statements -/

/-- Settles O16: the formula, as the two parts of the rotation add up, and the move of each bit. -/
theorem rotlMovesEveryBit : Obligations.RotlMovesEveryBit :=
  fun _ x _ h => ⟨toNat_rotl x h, fun _ hk => getLsbD_rotl x h hk⟩

/-- Settles O17: `rotr` is a `rotl` by the rest of the width, and it takes each bit back to where `rotl` had it from. -/
theorem rotrUndoesRotl : Obligations.RotrUndoesRotl :=
  fun _ x _ h => ⟨toNat_rotr x h, rotr_eq_rotl x h, rotr_rotl x h⟩

/-- Settles O18: `addMod` is the addition of words. -/
theorem addModWraps : Obligations.AddModWraps := by
  intro w a b
  rw [addMod_eq_add, BitVec.toNat_add]

/-- Settles O19: byte `j` of the reversal from one end is byte `j` of the value from the other. -/
theorem leReversesTheBytes : Obligations.LeReversesTheBytes := by
  intro n v
  refine ⟨fun j hj => ?_, le_le v⟩
  rw [Nat.sub_right_comm]
  exact chunk_le v hj

end Sys2Proof.Machine

/-! PROOFS of the family of FEAL (41_feal.md). The ideas they share: the checks of a command hand over the values its
operand registers hold, so a command's result is its pure function on them; each list the model builds round by round
is the list of the values of the statement's recurrence; and a decryption walks the encryption's history backwards. -/

namespace Sys2Proof.Machine

open Sys2Proof Sys2Proof.Claims

/-! ### The unit functions -/

theorem fealS0_eq_S0 (a b : Byte) : fealS0 a b = S0 a b := by
  rw [fealS0, addMod_eq_add, rotl_eq_rotateLeft _ (by decide), S0]

theorem fealS1_eq_S1 (a b : Byte) : fealS1 a b = S1 a b := by
  rw [fealS1, addMod_eq_add, addMod_eq_add, rotl_eq_rotateLeft _ (by decide), S1]

theorem fealF_eq_F (a : Word32) (b : Half) : fealF a b = F a b := by
  simp only [fealF, fealS0_eq_S0, fealS1_eq_S1]
  rfl

theorem fealFk_eq_FK (a b : Word32) : fealFk a b = FK a b := by
  simp only [fealFk, fealS0_eq_S0, fealS1_eq_S1]
  rfl

/-! ### Operands and results -/

/-- A register whose tag is `w` and whose number is a `w`-bit value passes `operand(X, {w})` (10_state.md R28). -/
theorem operand_of_tag_num {s : State} {x : OpReg} {w : Nat} {v : BitVec w} (htag : x.tag s = w)
    (hnum : x.num s = v.toNat) : operand s x w = .ok v := by
  refine operand_eq_ok.mpr ⟨htag, fun hwide => ?_, ?_⟩
  · exact absurd (hnum ▸ hwide.2) (Nat.not_le.mpr v.isLt)
  · rw [hnum, BitVec.ofNat_toNat, BitVec.setWidth_eq]

theorem unitOperands_of_holds {s : State} {wa wb : Nat} {a : BitVec wa} {b : BitVec wb} (haux : AuxHolds s b)
    (hdin : DinHolds s a) : unitOperands wa wb s = .ok (a, b) := by
  obtain ⟨hauxTag, hauxNum⟩ := haux
  obtain ⟨hdinTag, hdinNum, -⟩ := hdin
  exact unitOperands_eq_ok.mpr ⟨operand_of_tag_num hauxTag hauxNum, operand_of_tag_num hdinTag hdinNum⟩

theorem fealKeyOperand_of_holds {s : State} {n : Nat} {k : BitVec 128} (hrounds : FealRounds s n)
    (hkey : KeyHolds s k) : fealKeyOperand n s = .ok k :=
  fealKeyOperand_eq_ok.mpr ⟨checkFealRounds_eq_ok.mpr hrounds, operand_key_of_keyHolds hkey⟩

theorem fealOperands_of_holds {s : State} {n : Nat} {k : BitVec 128} {p : Block64} (hrounds : FealRounds s n)
    (hkey : KeyHolds s k) (hdin : DinHolds s p) : fealOperands n false s = .ok (k, ⟨64, p⟩) := by
  obtain ⟨hdinTag, hdinNum, -⟩ := hdin
  exact fealOperands_single_eq_ok.mpr
    ⟨fealKeyOperand_of_holds hrounds hkey, p, operand_of_tag_num hdinTag hdinNum, rfl⟩

theorem le_255_of_fealRounds {s : State} {n : Nat} (h : FealRounds s n) : n ≤ 255 := by
  obtain ⟨-, -, hmost⟩ := h
  have hmax := nmax_le_254 s.par
  omega

/-- The model's success is the one the statements write out (60_exceptions.md R178). -/
theorem succeed_eq_done {w : Nat} (v : BitVec w) (s : State) : succeed ⟨w, v⟩ s = done v s := rfl

/-- A unit command leaves its function of the two values its operand registers hold. -/
theorem afterChecks_unitOperands {s : State} {wa wb w : Nat} {a : BitVec wa} {b : BitVec wb} (haux : AuxHolds s b)
    (hdin : DinHolds s a) (f : BitVec wa → BitVec wb → BitVec w) :
    afterChecks (unitOperands wa wb s) (fun ab => succeed ⟨w, f ab.1 ab.2⟩ s) s = .next (done (f a b) s) := by
  rw [unitOperands_of_holds haux hdin, afterChecks_ok, succeed_eq_done]

/-! ### The key schedule -/

/-- The inputs of iteration `r + 1` are `(a[r], b[r], d[r])`, and it leaves `(a[r+1], b[r+1], d[r+1])`
(41_feal.md R104). -/
theorem abd_succ (k : BitVec 128) (r : Nat) :
    abd k (r + 1) = ((abd k r).2.1,
      fealFk (abd k r).1 ((abd k r).2.1 ^^^ (abd k r).2.2 ^^^
        scheduleQ (k.extractLsb' 32 32) (k.extractLsb' 0 32) (r + 1)),
      (abd k r).1) := by
  rw [fealFk_eq_FK]
  rfl

/-- The iterations of the key schedule from `r + 1` on, with the inputs the recurrence gives them. -/
def scheduleAt (k : BitVec 128) (m r : Nat) : List Half :=
  scheduleFrom (k.extractLsb' 32 32) (k.extractLsb' 0 32) m (r + 1) (abd k r).1 (abd k r).2.1 (abd k r).2.2

theorem keySchedule_eq_scheduleAt (k : BitVec 128) (n : Nat) : keySchedule k n = scheduleAt k (n / 2 + 4) 0 := rfl

/-- One iteration emits `sk[2r]` and `sk[2r+1]`, the halves of `b[r+1]` (41_feal.md R104). -/
theorem scheduleAt_succ (k : BitVec 128) (m r : Nat) :
    scheduleAt k (m + 1) r = SK k (2 * r) :: SK k (2 * r + 1) :: scheduleAt k m (r + 1) := by
  have heven : SK k (2 * r) = (abd k (r + 1)).2.1.extractLsb' 16 16 := by
    simp [SK]
  have hodd : SK k (2 * r + 1) = (abd k (r + 1)).2.1.extractLsb' 0 16 := by
    simp [SK, Nat.mul_add_div]
  rw [heven, hodd, scheduleAt, scheduleFrom, scheduleAt, abd_succ]

theorem scheduleAt_eq_map (k : BitVec 128) (m r : Nat) :
    scheduleAt k m r = (List.range' (2 * r) (2 * m)).map (SK k) := by
  induction m generalizing r with
  | zero => rfl
  | succ m ih =>
    rw [scheduleAt_succ, ih, show 2 * (m + 1) = 2 * m + 1 + 1 by rfl, List.range'_succ, List.range'_succ]
    rfl

/-- The schedule is `sk[0], ..., sk[N+7]` (41_feal.md R104). -/
theorem keySchedule_eq_map (k : BitVec 128) {n : Nat} (heven : n % 2 = 0) :
    keySchedule k n = (List.range (n + 8)).map (SK k) := by
  rw [keySchedule_eq_scheduleAt, scheduleAt_eq_map, show 2 * (n / 2 + 4) = n + 8 by omega, List.range_eq_range']

theorem subkey_keySchedule (k : BitVec 128) {n j : Nat} (heven : n % 2 = 0) (hj : j < n + 8) :
    subkey (keySchedule k n) j = SK k j := by
  simp [subkey, keySchedule_eq_map k heven, hj]

/-- Part `j` of the packed schedule, `sk[0]` most significant, is `sk[j]` (41_feal.md R111). -/
theorem extractLsb'_packSchedule (k : BitVec 128) {n j : Nat} (heven : n % 2 = 0) (hj : j < n + 8) :
    (packSchedule (keySchedule k n) n).extractLsb' (16 * (n + 7 - j)) 16 = SK k j :=
  (chunk_concatN (subkey (keySchedule k n)) (n + 8) j hj).trans (subkey_keySchedule k heven hj)

theorem roundKeys_keySchedule (k : BitVec 128) {n : Nat} (heven : n % 2 = 0) :
    roundKeys (keySchedule k n) n = (List.range n).map (SK k) :=
  List.map_congr_left fun j hj => subkey_keySchedule k heven (by have := List.mem_range.mp hj; omega)

/-- Four elements as two pairs. -/
theorem toNat_concatN_four {w : Nat} (f : Nat → BitVec w) :
    (concatN f 4).toNat = ((f 0 ++ f 1) ++ (f 2 ++ f 3)).toNat := by
  simp [concatN, BitVec.append_assoc', BitVec.toNat_append]

/-- The four subkeys of a whitening step, as two words. -/
theorem subkeys4_keySchedule (k : BitVec 128) {n i : Nat} (heven : n % 2 = 0) (hi : i + 3 < n + 8) :
    subkeys4 (keySchedule k n) i = SK2 k i ++ SK2 k (i + 2) := by
  have hkeys : subkeys4 (keySchedule k n) i = concatN (fun j => SK k (i + j)) 4 :=
    concatN_congr fun j hj => subkey_keySchedule k heven (by omega)
  rw [hkeys]
  exact BitVec.eq_of_toNat_eq (toNat_concatN_four _)

/-! ### The halves of a block -/

theorem upper32_append_lower32 (p : Block64) : upper32 p ++ lower32 p = p :=
  (BitVec.extractLsb'_append_extractLsb'_eq_extractLsb' (by rfl)).trans BitVec.extractLsb'_eq_self

theorem upper32_append (a b : Word32) : upper32 (a ++ b) = a := BitVec.extractLsb'_append_eq_left

theorem lower32_append (a b : Word32) : lower32 (a ++ b) = b := BitVec.extractLsb'_append_eq_right

/-- The fold leaves the upper half and XORs it into the lower half (90_conflicts.md C1). -/
theorem fold_append (a b : Word32) : fold (a ++ b) = a ++ (b ^^^ a) := by
  have hzext : a.setWidth 64 = 0#32 ++ a := BitVec.setWidth_eq_append (by decide)
  rw [fold, upper32_append, hzext, BitVec.xor_append, BitVec.xor_zero]

/-- What the first whitening step and the fold make of a block. -/
theorem fold_xor_append (p : Block64) (a b : Word32) :
    fold (p ^^^ (a ++ b)) = (upper32 p ^^^ a) ++ (lower32 p ^^^ b ^^^ (upper32 p ^^^ a)) := by
  conv_lhs => rw [← upper32_append_lower32 p]
  rw [BitVec.xor_append, fold_append]

/-- What the fold and the last whitening step make of two halves. -/
theorem fold_append_xor_append (a b c d : Word32) : fold (a ++ b) ^^^ (c ++ d) = (a ^^^ c) ++ (b ^^^ a ^^^ d) := by
  rw [fold_append, BitVec.xor_append]

/-! ### The rounds -/

/-- The whitened and folded halves an encryption starts from (41_feal.md R105). -/
theorem encLR_zero (k : BitVec 128) (n : Nat) (p : Block64) :
    encLR k n p 0 = (upper32 p ^^^ SK2 k n, lower32 p ^^^ SK2 k (n + 2) ^^^ (upper32 p ^^^ SK2 k n)) := rfl

/-- The whitened and folded halves a decryption starts from (41_feal.md R106). -/
theorem decDown_zero (k : BitVec 128) (n : Nat) (c : Block64) :
    decDown k n c 0 =
      (lower32 c ^^^ SK2 k (n + 6) ^^^ (upper32 c ^^^ SK2 k (n + 4)), upper32 c ^^^ SK2 k (n + 4)) := rfl

/-- The successive values of a fold over the keys of `n` rounds are those of the recurrence the keys drive. -/
theorem scanl_map_range {α β : Type} {step : α → β → α} {h : Nat → α} {key : Nat → β} {n : Nat}
    (hstep : ∀ i, h (i + 1) = step (h i) (key i)) :
    ((List.range n).map key).scanl step (h 0) = (List.range (n + 1)).map h := by
  induction n generalizing h key with
  | zero => rfl
  | succ n ih =>
    have htail : ((List.range n).map (key ∘ Nat.succ)).scanl step (h (0 + 1)) =
        (List.range (n + 1)).map (h ∘ Nat.succ) :=
      ih (h := h ∘ Nat.succ) (key := key ∘ Nat.succ) fun i => hstep (i + 1)
    rw [List.range_succ_eq_map, List.map_cons, List.map_map, List.scanl_cons, ← hstep, htail,
      List.range_succ_eq_map (n := n + 1), List.map_cons, List.map_map]

theorem encryptRounds_eq_scanl (ks : List Half) (lr : Word32 × Word32) :
    encryptRounds ks lr = ks.scanl (fun lr k => (lr.2, lr.1 ^^^ F lr.2 k)) lr := by
  induction ks generalizing lr with
  | nil => rfl
  | cons k ks ih => rw [encryptRounds, ih, List.scanl_cons, fealF_eq_F]

theorem decryptRounds_eq_scanl (ks : List Half) (lr : Word32 × Word32) :
    decryptRounds ks lr = ks.scanl (fun lr k => (lr.2 ^^^ F lr.1 k, lr.1)) lr := by
  induction ks generalizing lr with
  | nil => rfl
  | cons k ks ih => rw [decryptRounds, ih, List.scanl_cons, fealF_eq_F]

/-- The rounds of an encryption go through `(L[0], R[0]), ..., (L[N], R[N])` (41_feal.md R105). -/
theorem encryptRounds_keySchedule (k : BitVec 128) (p : Block64) {n : Nat} (heven : n % 2 = 0) :
    encryptRounds (roundKeys (keySchedule k n) n) (encLR k n p 0) = (List.range (n + 1)).map (encLR k n p) := by
  rw [roundKeys_keySchedule k heven, encryptRounds_eq_scanl]
  exact scanl_map_range fun _ => rfl

/-- A list over `0, ..., n` read from its end. -/
theorem reverse_map_range {α : Type} (f : Nat → α) (n : Nat) :
    ((List.range (n + 1)).map f).reverse = (List.range (n + 1)).map fun i => f (n - i) := by
  rw [← List.map_reverse, List.range_eq_range', List.reverse_range', List.map_map, ← List.range_eq_range']
  simp [Function.comp_def]

/-- The rounds of a decryption, read from the end, go through `(L[0], R[0]), ..., (L[N], R[N])` (41_feal.md R106). -/
theorem decryptRounds_keySchedule (k : BitVec 128) (c : Block64) {n : Nat} (heven : n % 2 = 0) :
    (decryptRounds (roundKeys (keySchedule k n) n).reverse (decDown k n c 0)).reverse =
      (List.range (n + 1)).map (decLR k n c) := by
  have hkeys : ((List.range n).map (SK k)).reverse = (List.range n).map fun m => SK k (n - m - 1) := by
    rw [← List.map_reverse, List.range_eq_range', List.reverse_range', List.map_map, ← List.range_eq_range']
    simp [Function.comp_def, Nat.sub_right_comm]
  have hdown := scanl_map_range (step := fun lr k => (lr.2 ^^^ F lr.1 k, lr.1)) (h := decDown k n c)
    (key := fun m => SK k (n - m - 1)) (n := n) fun _ => rfl
  rw [roundKeys_keySchedule k heven, hkeys, decryptRounds_eq_scanl, hdown, reverse_map_range]
  rfl

/-! ### The block functions -/

/-- Encryption under a schedule is the statement's, with its history (41_feal.md R105). -/
theorem fealEncryptBlock_eq (k : BitVec 128) (p : Block64) {n : Nat} (heven : n % 2 = 0) :
    fealEncryptBlock (keySchedule k n) n p = ⟨encBlock k n p, (List.range (n + 1)).map (encLR k n p)⟩ := by
  have hlast : ((List.range (n + 1)).map (encLR k n p)).getLastD (0#32, 0#32) = encLR k n p n := by
    rw [List.range_succ, List.map_append, List.map_singleton, List.getLastD_concat]
  have hblock : encBlock k n p = fold ((encLR k n p n).2 ++ (encLR k n p n).1) ^^^ (SK2 k (n + 4) ++ SK2 k (n + 6)) :=
    (fold_append_xor_append _ _ _ _).symm
  simp only [fealEncryptBlock, subkeys4_keySchedule k heven (show n + 3 < n + 8 by omega),
    subkeys4_keySchedule k heven (show n + 4 + 3 < n + 8 by omega), fold_xor_append, upper32_append, lower32_append,
    ← encLR_zero, encryptRounds_keySchedule k p heven, hlast, hblock]

/-- Decryption under a schedule is the statement's, with its history (41_feal.md R106). -/
theorem fealDecryptBlock_eq (k : BitVec 128) (c : Block64) {n : Nat} (heven : n % 2 = 0) :
    fealDecryptBlock (keySchedule k n) n c = ⟨decBlock k n c, (List.range (n + 1)).map (decLR k n c)⟩ := by
  have hfirst : ((List.range (n + 1)).map (decLR k n c)).headD (0#32, 0#32) = decLR k n c 0 := by
    rw [List.range_succ_eq_map, List.map_cons, List.headD_cons]
  have hblock : decBlock k n c = fold ((decLR k n c 0).1 ++ (decLR k n c 0).2) ^^^ (SK2 k n ++ SK2 k (n + 2)) :=
    (fold_append_xor_append _ _ _ _).symm
  simp only [fealDecryptBlock, subkeys4_keySchedule k heven (show n + 3 < n + 8 by omega),
    subkeys4_keySchedule k heven (show n + 4 + 3 < n + 8 by omega), fold_xor_append, upper32_append, lower32_append,
    ← decDown_zero, decryptRounds_keySchedule k c heven, hfirst, hblock]

/-! ### The inverses -/

theorem upper32_encBlock (k : BitVec 128) (n : Nat) (p : Block64) :
    upper32 (encBlock k n p) = (encLR k n p n).2 ^^^ SK2 k (n + 4) := upper32_append _ _

theorem lower32_encBlock (k : BitVec 128) (n : Nat) (p : Block64) :
    lower32 (encBlock k n p) = (encLR k n p n).1 ^^^ (encLR k n p n).2 ^^^ SK2 k (n + 6) := lower32_append _ _

theorem upper32_decBlock (k : BitVec 128) (n : Nat) (c : Block64) :
    upper32 (decBlock k n c) = (decLR k n c 0).1 ^^^ SK2 k n := upper32_append _ _

theorem lower32_decBlock (k : BitVec 128) (n : Nat) (c : Block64) :
    lower32 (decBlock k n c) = (decLR k n c 0).2 ^^^ (decLR k n c 0).1 ^^^ SK2 k (n + 2) := lower32_append _ _

/-- After `m` rounds the decryption of a ciphertext is where its encryption was before its last `m`. -/
theorem decDown_encBlock (k : BitVec 128) (p : Block64) {n m : Nat} (hm : m ≤ n) :
    decDown k n (encBlock k n p) m = encLR k n p (n - m) := by
  induction m with
  | zero => simp only [decDown_zero, upper32_encBlock, lower32_encBlock, xor_cancel_right, Nat.sub_zero]
  | succ m ih =>
    have hprev : encLR k n p (n - m) = encLR k n p (n - (m + 1) + 1) := by rw [show n - m = n - (m + 1) + 1 by omega]
    rw [decDown, ih (by omega), hprev]
    simp only [encLR, Nat.sub_sub, xor_cancel_right]

/-- Decrypting a ciphertext goes through the history of its encryption (41_feal.md R114). -/
theorem decLR_encBlock (k : BitVec 128) (p : Block64) {n i : Nat} (hi : i ≤ n) :
    decLR k n (encBlock k n p) i = encLR k n p i := by
  rw [decLR, decDown_encBlock k p (Nat.sub_le n i), Nat.sub_sub_self hi]

/-- Encrypting a plaintext goes through the history of the decryption that gave it (41_feal.md R114). -/
theorem encLR_decBlock (k : BitVec 128) (c : Block64) {n i : Nat} (hi : i ≤ n) :
    encLR k n (decBlock k n c) i = decLR k n c i := by
  induction i with
  | zero => simp only [encLR_zero, upper32_decBlock, lower32_decBlock, xor_cancel_right]
  | succ i ih =>
    have hprev : decLR k n c i = decDown k n c (n - (i + 1) + 1) := by rw [decLR, show n - i = n - (i + 1) + 1 by omega]
    have hkey : n - (n - (i + 1)) - 1 = i := by omega
    rw [encLR, ih (by omega), hprev]
    simp only [decDown, hkey, xor_cancel_right, decLR]

theorem decBlock_encBlock (k : BitVec 128) (n : Nat) (p : Block64) : decBlock k n (encBlock k n p) = p := by
  rw [decBlock, decLR_encBlock k p (Nat.zero_le n)]
  simp only [encLR_zero, xor_cancel_right, upper32_append_lower32]

theorem encBlock_decBlock (k : BitVec 128) (n : Nat) (c : Block64) : encBlock k n (decBlock k n c) = c := by
  rw [encBlock, encLR_decBlock k c (Nat.le_refl n), decLR, Nat.sub_self]
  simp only [decDown_zero, xor_cancel_right, upper32_append_lower32]

/-! ### The trace window -/

/-- The entries of the history, then zeros up to 256 (10_state.md R32). -/
theorem traceEntries_map_range {n : Nat} (hn : n ≤ 255) (f : Nat → Word32) :
    traceEntries ((List.range (n + 1)).map f) = (List.range 256).map fun i => if i ≤ n then f i else 0#32 := by
  apply List.ext_getElem
  · rw [traceEntries_length (by simp; omega)]
    simp
  · intro i _ _
    by_cases hi : i ≤ n
    · simp [traceEntries, Nat.lt_succ_of_le hi, hi]
    · simp [traceEntries, List.getElem_append, hi]

theorem writeTrace_map_range {n : Nat} (hn : n ≤ 255) (h : Nat → Word32 × Word32) (s : State) :
    writeTrace ((List.range (n + 1)).map h) s = traced n h s := by
  simp only [writeTrace, traced, List.length_map, List.length_range, List.map_map,
    traceEntries_map_range hn, Function.comp_apply]

/-- The trace window shows the history up to `N` only. -/
theorem traced_congr {n : Nat} {h h' : Nat → Word32 × Word32} (heq : ∀ i, i ≤ n → h i = h' i) (s : State) :
    traced n h s = traced n h' s := by
  have hentry {g : Word32 × Word32 → Word32} (i : Nat) :
      (if i ≤ n then g (h i) else 0#32) = if i ≤ n then g (h' i) else 0#32 := by
    split
    next hi => rw [heq i hi]
    next => rfl
  simp only [traced, hentry]

/-- One block command leaves its block and its history. -/
theorem blockResult_eq {fn : Block64 → BlockResult} {p b : Block64} {n : Nat} {h : Nat → Word32 × Word32}
    (hn : n ≤ 255) (hfn : fn p = ⟨b, (List.range (n + 1)).map h⟩) (s : State) :
    blockResult fn p s = traced n h (done b s) := by
  rw [blockResult, hfn, succeed_eq_done, writeTrace_map_range hn]

/-! ### The result of a block command -/

theorem traced_dout (n : Nat) (h : Nat → Word32 × Word32) (s : State) : (traced n h s).dout = s.dout := rfl

/-- A block in `DOUT` is its number (10_state.md R27). -/
theorem done_dout_toNat (b : Block64) (s : State) : (done b s).dout.toNat = b.toNat := by
  rw [done, BitVec.toNat_setWidth_of_le (by decide)]

/-- Taking a block out of `DOUT` gives it back. -/
theorem setWidth_done_dout (b : Block64) (s : State) : (done b s).dout.setWidth 64 = b := by
  apply BitVec.eq_of_toNat_eq
  rw [BitVec.toNat_setWidth, done_dout_toNat, Nat.mod_eq_of_lt b.isLt]

/-! ### The statements -/

/-- Settles O20: both S-boxes are sums rotated by 2. -/
theorem fealSBoxResults : Obligations.FealSBoxResults := by
  intro s a b haux hdin
  rw [← fealS0_eq_S0, ← fealS1_eq_S1]
  exact ⟨afterChecks_unitOperands haux hdin fealS0, afterChecks_unitOperands haux hdin fealS1⟩

/-- Settles O21: the model's bytes are the slices of the statement. -/
theorem fealFResult : Obligations.FealFResult := by
  intro s a b haux hdin
  rw [← fealF_eq_F]
  exact afterChecks_unitOperands haux hdin fealF

/-- Settles O22: the same for the function of the key schedule. -/
theorem fealFkResult : Obligations.FealFkResult := by
  intro s a b haux hdin
  rw [← fealFk_eq_FK]
  exact afterChecks_unitOperands haux hdin fealFk

/-- Settles O23: the schedule lists the recurrence, and `FEAL.KS` takes its branch with room. -/
theorem fealKeyScheduleResult : Obligations.FealKeyScheduleResult := by
  constructor
  · intro n k heven _
    rw [keySchedule_eq_map k heven]
    exact ⟨by simp, fun j hj => by simp [hj]⟩
  · intro s n k hrounds hkey hroom
    refine ⟨packSchedule (keySchedule k n) n, fun j hj => extractLsb'_packSchedule k hrounds.1 hj, ?_⟩
    show execFealKs n s = _
    rw [execFealKs, fealKeyOperand_of_holds hrounds hkey, afterChecks_ok, scheduleResult, doutmax_eq, if_pos hroom,
      succeed_eq_done]

/-- Settles O25: the one block is encrypted under the schedule of the key. -/
theorem fealEncryptBlockResult : Obligations.FealEncryptBlockResult := by
  intro s n k p hrounds hkey hdin
  show execFealEnc n false s = _
  rw [execFealEnc, fealOperands_of_holds hrounds hkey hdin, afterChecks_ok, fealEffect, BitVec.setWidth_eq,
    blockResult_eq (le_255_of_fealRounds hrounds) (fealEncryptBlock_eq k p hrounds.1)]

/-- Settles O26: the one block is decrypted under the schedule of the key. -/
theorem fealDecryptBlockResult : Obligations.FealDecryptBlockResult := by
  intro s n k c hrounds hkey hdin
  show execFealDec n false s = _
  rw [execFealDec, fealOperands_of_holds hrounds hkey hdin, afterChecks_ok, fealEffect, BitVec.setWidth_eq,
    blockResult_eq (le_255_of_fealRounds hrounds) (fealDecryptBlock_eq k c hrounds.1)]

/-- Settles O29: the two block functions undo each other, and go through the same history. -/
theorem fealBlockRoundTrip : Obligations.FealBlockRoundTrip := by
  intro s s' t n k p hrounds hrounds' hkey hkey' hdin hdin'
  constructor
  · intro henc
    obtain rfl := Host.Outcome.next.inj (henc.symm.trans (fealEncryptBlockResult s n k p hrounds hkey hdin))
    rw [traced_dout, setWidth_done_dout] at hdin'
    refine ⟨_, fealDecryptBlockResult s' n k _ hrounds' hkey' hdin', ?_⟩
    rw [decBlock_encBlock, traced_congr fun i hi => decLR_encBlock k p hi]
    exact ⟨done_dout_toNat p s', rfl, rfl, rfl, rfl⟩
  · intro hdec
    obtain rfl := Host.Outcome.next.inj (hdec.symm.trans (fealDecryptBlockResult s n k p hrounds hkey hdin))
    rw [traced_dout, setWidth_done_dout] at hdin'
    refine ⟨_, fealEncryptBlockResult s' n k _ hrounds' hkey' hdin', ?_⟩
    rw [encBlock_decBlock, traced_congr fun i hi => encLR_decBlock k p hi]
    exact ⟨done_dout_toNat p s', rfl, rfl, rfl, rfl⟩

end Sys2Proof.Machine

/-! PROOFS of the family of Salsa20 (42_salsa20.md), with the round trips of both stream ciphers. The ideas they share:
each function of the model is the statement's, word by word; and a stream command that succeeds once goes on doing the
same to every text, as long as the other operands stay (`Streams`, `Encrypts`, `Decrypts`). -/

namespace Sys2Proof.Machine

open Sys2Proof Sys2Proof.Claims

/-! ### Words of a state -/

theorem chunk_eq_word (x : BitVec 512) (i : Nat) : chunk 32 16 x i = word x i := rfl

/-- Word `i` of a packed state is its entry `i` (00_scope.md R12). -/
theorem word_joinWords (x : Block16) (i : Nat) (hi : i < 16) : word (joinWords x) i = x[i] := by
  rw [← chunk_eq_word, ← getElem_splitWords _ i hi]
  simp only [splitWords_joinWords]

/-! ### Byte reversal -/

/-- The first `m` elements of a concatenation, then the others. -/
theorem toNat_concatN_add {w : Nat} (f : Nat → BitVec w) (m n : Nat) :
    (concatN f (m + n)).toNat = (concatN f m ++ concatN (fun j => f (m + j)) n).toNat := by
  induction n with
  | zero => simp [concatN]
  | succ n ih =>
    rw [← Nat.add_assoc, concatN_succ, concatN_succ, BitVec.toNat_append, ih, ← BitVec.toNat_append,
      BitVec.append_assoc', BitVec.toNat_cast]

/-- Four elements written side by side. -/
theorem toNat_append_four {w : Nat} (f : Nat → BitVec w) :
    (f 0 ++ f 1 ++ f 2 ++ f 3).toNat = (concatN f 4).toNat := by
  rw [toNat_concatN_four, BitVec.append_assoc', BitVec.toNat_cast]

/-- Swapping four bytes is the reversal of 40_bitops.md R93 at 32 bits. -/
theorem le32_eq_swap32 (v : Word32) : le32 v = swap32 v :=
  BitVec.eq_of_toNat_eq (toNat_append_four fun j => v.extractLsb' (8 * j) 8).symm

/-- A slice of a slice is a slice. -/
theorem extractLsb'_extractLsb' {w lo n start len : Nat} (x : BitVec w) (h : start + len ≤ n) :
    (x.extractLsb' lo n).extractLsb' start len = x.extractLsb' (lo + start) len := by
  apply BitVec.eq_of_getLsbD_eq
  intro i hi
  simp [hi, show start + i < n by omega, Nat.add_assoc]

/-- The reversal at 64 bits swaps the reversed halves. -/
theorem le64_eq_swap64 (v : BitVec 64) : le64 v = swap64 v := by
  have hlow : le32 (v.extractLsb' 0 32) = concatN (fun j => v.extractLsb' (8 * j) 8) 4 :=
    concatN_congr fun j hj => BitVec.extractLsb'_extractLsb'_of_le (by omega)
  have hhigh : le32 (v.extractLsb' 32 32) = concatN (fun j => v.extractLsb' (8 * (4 + j)) 8) 4 :=
    concatN_congr fun j hj => by
      rw [extractLsb'_extractLsb' v (show 8 * j + 8 ≤ 32 by omega), Nat.mul_add]
  apply BitVec.eq_of_toNat_eq
  rw [swap64, ← le32_eq_swap32, ← le32_eq_swap32, hlow, hhigh]
  exact toNat_concatN_add (fun j => v.extractLsb' (8 * j) 8) 4 4

/-! ### The rounds -/

theorem salsaQuarterround_eq_QR (y0 y1 y2 y3 : Word32) : salsaQuarterround y0 y1 y2 y3 = QR y0 y1 y2 y3 := by
  simp only [salsaQuarterround, addMod_eq_add, rotl_eq_rotateLeft _ (by decide : 7 < 32),
    rotl_eq_rotateLeft _ (by decide : 9 < 32), rotl_eq_rotateLeft _ (by decide : 13 < 32),
    rotl_eq_rotateLeft _ (by decide : 18 < 32)]
  rfl

/-- The model's row round takes the words the index formula of 42_salsa20.md R121 names, row by row. -/
theorem rowRound_joinWords (y : Block16) : RowRound (joinWords y) (joinWords (rowround y)) := by
  intro r hr
  simp only [rowround, salsaQuarterround_eq_QR]
  interval_cases r <;> simp only [Nat.reduceMul, Nat.reduceAdd, Nat.reduceMod, word_joinWords, Nat.reduceLT] <;> rfl

/-- The same for the column round (42_salsa20.md R122). -/
theorem columnRound_joinWords (x : Block16) : ColumnRound (joinWords x) (joinWords (columnround x)) := by
  intro c hc
  simp only [columnround, salsaQuarterround_eq_QR]
  interval_cases c <;> simp only [Nat.reduceMul, Nat.reduceAdd, Nat.reduceMod, word_joinWords, Nat.reduceLT] <;> rfl

theorem doubleRound_joinWords (x : Block16) : DoubleRound (joinWords x) (joinWords (doubleround x)) :=
  ⟨joinWords (columnround x), columnRound_joinWords x, rowRound_joinWords (columnround x)⟩

/-! ### The hash and the expansion -/

theorem word_feedForward (z w : Block16) (i : Nat) (hi : i < 16) :
    word (feedForward z w) i = swap32 (z[i] + w[i]) := by
  rw [feedForward, word_joinWords _ i hi, Vector.getElem_ofFn, le32_eq_swap32, addMod_eq_add]
  rfl

/-- The states between the double rounds are the iterates of the reversed input (42_salsa20.md R124). -/
theorem salsaHash_spec (x : BitVec 512) (rounds : Nat) : SalsaHash x rounds (salsaHash x rounds) := by
  refine ⟨fun m => joinWords (repeatN doubleround m ((splitWords x).map le32)), fun i hi => ?_, fun m _ => ?_,
    fun i hi => ?_⟩
  · beta_reduce
    rw [repeatN_zero, word_joinWords _ i hi, Vector.getElem_map, getElem_splitWords, le32_eq_swap32, chunk_eq_word]
  · simp only [repeatN_eq_iterate, Function.iterate_succ_apply']
    exact doubleRound_joinWords _
  · simp only [salsaHash, word_feedForward _ _ i hi, word_joinWords _ i hi, repeatN_zero]

/-- The constants of both key widths, and the concatenation of 90_conflicts.md C3. -/
theorem salsaMatrix_eq_matrix (key : SalsaKey) (nonce : BitVec 128) : salsaMatrix key nonce = matrix nonce key := by
  cases key <;> rfl

theorem salsaExpansion_spec (key : SalsaKey) (nonce : BitVec 128) (rounds : Nat) :
    SalsaHash (matrix nonce key) rounds (salsaExpansion key nonce rounds) := by
  rw [← salsaMatrix_eq_matrix]
  exact salsaHash_spec _ rounds

/-! ### The keystream -/

theorem le_mul_ceilDiv (w : Nat) : w ≤ 512 * ceilDiv w 512 := by
  rw [ceilDiv]
  omega

/-- Bit `m` from the top of a keystream is bit `m % 512` from the top of its block `m / 512` (42_salsa20.md R127). -/
theorem getLsbD_topBits_concatN (block : Nat → BitVec 512) {w n m : Nat} (hm : m < w) (hw : w ≤ 512 * n) :
    (topBits w (concatN block n)).getLsbD (w - 1 - m) = (block (m / 512)).getLsbD (511 - m % 512) := by
  have hpos : 512 * n - w + (w - 1 - m) = 512 * n - 1 - m := by omega
  have hblock : n - 1 - (512 * n - 1 - m) / 512 = m / 512 := by omega
  have hbit : (512 * n - 1 - m) % 512 = 511 - m % 512 := by omega
  rw [topBits, BitVec.getLsbD_extractLsb', hpos, getLsbD_concatN, hblock, hbit]
  simp [show w - 1 - m < w by omega, show 512 * n - 1 - m < 512 * n by omega]

theorem keystreamXor_xorKeystream (block : Nat → BitVec 512) {w : Nat} (text : BitVec w) :
    KeystreamXor block text (xorKeystream block text) := by
  intro m hm
  rw [xorKeystream, BitVec.getLsbD_xor, getLsbD_topBits_concatN block hm (le_mul_ceilDiv w), Bool.bne_eq_xor]

theorem salsaXcrypt_spec (key : SalsaKey) (iv : BitVec 64) (rounds : Nat) {w : Nat} (text : BitVec w) :
    SalsaXcrypt key iv rounds text (salsaXcrypt key iv rounds text) := by
  refine ⟨salsaBlock key iv rounds, fun c _ => ?_, keystreamXor_xorKeystream _ text⟩
  rw [← le64_eq_swap64]
  exact salsaExpansion_spec key _ rounds

/-- A text of zeros shows the keystream itself. -/
theorem xorKeystream_zero (block : Nat → BitVec 512) (w : Nat) :
    xorKeystream block 0#w = topBits w (concatN block (ceilDiv w 512)) := BitVec.zero_xor

/-- A shorter keystream is the top of a longer one (42_salsa20.md R137). -/
theorem topBits_xorKeystream_zero (block : Nat → BitVec 512) {v w : Nat} (h : v ≤ w) :
    topBits v (xorKeystream block 0#w) = xorKeystream block 0#v := by
  rw [xorKeystream_zero, xorKeystream_zero]
  apply BitVec.eq_of_getLsbD_eq
  intro i hi
  obtain ⟨m, hm, rfl⟩ : ∃ m, m < v ∧ i = v - 1 - m := ⟨v - 1 - i, by omega, by omega⟩
  have hpos : w - v + (v - 1 - m) = w - 1 - m := by omega
  rw [getLsbD_topBits_concatN block hm (le_mul_ceilDiv v), topBits, BitVec.getLsbD_extractLsb', hpos,
    getLsbD_topBits_concatN block (hm.trans_le h) (le_mul_ceilDiv w)]
  simp [hi]

theorem toNat_topBits {v w : Nat} (x : BitVec w) (h : v ≤ w) : (topBits v x).toNat = x.toNat / 2 ^ (w - v) := by
  rw [topBits, BitVec.extractLsb'_toNat, Nat.shiftRight_eq_div_pow, Nat.mod_eq_of_lt]
  apply Nat.div_lt_of_lt_mul
  rw [← Nat.pow_add, Nat.sub_add_cancel h]
  exact x.isLt

/-! ### Operands -/

theorem operand_din_of_holds {s : State} {w : Nat} {x : BitVec w} (h : DinHolds s x) : operand s .din w = .ok x := by
  obtain ⟨htag, hnum, -⟩ := h
  exact operand_of_tag_num htag hnum

theorem operand_nonce_of_holds {s : State} {w : Nat} {x : BitVec w} (h : NonceHolds s x) :
    operand s .nonce w = .ok x := by
  obtain ⟨htag, hnum⟩ := h
  exact operand_of_tag_num htag hnum

theorem textOperand_of_holds {s : State} {w least : Nat} {text : BitVec w} (h : DinHolds s text) (hleast : least ≤ w) :
    textOperand s least = .ok ⟨w, text⟩ := by
  obtain ⟨rfl, hnum, hcap⟩ := h
  refine textOperand_eq_ok.mpr ⟨hcap, hleast, fun hwide => ?_, ?_⟩
  · exact absurd (hnum ▸ hwide.2) (Nat.not_le.mpr text.isLt)
  · rw [hnum, BitVec.ofNat_toNat, BitVec.setWidth_eq]

theorem salsaKeyOperand_of_holds {s : State} {key : SalsaKey} (h : SalsaKeyHolds s key) :
    salsaKeyOperand s = .ok key := by
  cases key with
  | k128 k =>
    obtain ⟨htag, hnum⟩ : KeyHolds s k := h
    refine salsaKeyOperand_eq_ok.mpr (.inl ⟨htag, hnum ▸ k.isLt, ?_⟩)
    rw [hnum, BitVec.ofNat_toNat, BitVec.setWidth_eq]
  | k256 k =>
    obtain ⟨htag, hnum⟩ : KeyHolds s k := h
    exact salsaKeyOperand_eq_ok.mpr (.inr ⟨htag, congrArg _ (BitVec.eq_of_toNat_eq hnum.symm)⟩)

theorem salsaKeyed_of_holds {s : State} {rounds : Nat} {key : SalsaKey} (hrounds : StreamRounds rounds)
    (hkey : SalsaKeyHolds s key) : salsaKeyed rounds s = .ok key :=
  salsaKeyed_eq_ok.mpr ⟨checkStreamRounds_eq_ok.mpr hrounds, salsaKeyOperand_of_holds hkey⟩

/-! ### What the commands leave -/

/-- The four chunks of four words side by side are the words (42_salsa20.md R128, 43_chacha.md R145). -/
theorem quarterResult_append (qr : Word32 → Word32 → Word32 → Word32 → Word32 × Word32 × Word32 × Word32)
    (y0 y1 y2 y3 : Word32) : quarterResult qr (y0 ++ y1 ++ y2 ++ y3) =
      ⟨128, (qr y0 y1 y2 y3).1 ++ (qr y0 y1 y2 y3).2.1 ++ (qr y0 y1 y2 y3).2.2.1 ++ (qr y0 y1 y2 y3).2.2.2⟩ := by
  have hwords : y0 ++ y1 ++ y2 ++ y3 = concatN (fun j => [y0, y1, y2, y3].getD j 0#32) 4 :=
    BitVec.eq_of_toNat_eq (toNat_append_four fun j => [y0, y1, y2, y3].getD j 0#32)
  have hchunk (j : Nat) (hj : j < 4) : chunk 32 4 (y0 ++ y1 ++ y2 ++ y3) j = [y0, y1, y2, y3].getD j 0#32 := by
    rw [hwords]
    exact chunk_concatN (w := 32) _ 4 j hj
  rw [quarterResult, hchunk 0 (by decide), hchunk 1 (by decide), hchunk 2 (by decide), hchunk 3 (by decide)]
  rfl

/-- A command of one operand of `DIN` leaves its function of the value `DIN` holds. -/
theorem afterChecks_din {s : State} {n w : Nat} {x : BitVec n} (hdin : DinHolds s x) (f : BitVec n → BitVec w) :
    afterChecks (operand s .din n) (fun x => succeed ⟨w, f x⟩ s) s = .next (done (f x) s) := by
  rw [operand_din_of_holds hdin, afterChecks_ok, succeed_eq_done]

theorem exec_salsaXcrypt {s : State} {rounds w : Nat} {key : SalsaKey} {iv : BitVec 64} {text : BitVec w}
    (hkey : salsaKeyed rounds s = .ok key) (hiv : operand s .nonce 64 = .ok iv) (hdin : DinHolds s text) :
    exec (.salsaXcrypt rounds) s = .next (done (salsaXcrypt key iv rounds text) s) := by
  show execSalsaXcrypt rounds s = _
  rw [execSalsaXcrypt, salsaXcryptOperands_eq_ok.mpr ⟨hkey, hiv, textOperand_of_holds hdin (Nat.zero_le w)⟩,
    afterChecks_ok, succeed_eq_done]

theorem exec_salsaEnc {s : State} {rounds w : Nat} {key : SalsaKey} {text : BitVec w}
    (hkey : salsaKeyed rounds s = .ok key) (hdin : DinHolds s text) :
    exec (.salsaEnc rounds) s = .next (done (Config.rng 64 s.draws ++
      salsaXcrypt key (Config.rng 64 s.draws) rounds text) (tookDraw s)) := by
  show execSalsaEnc rounds s = _
  rw [execSalsaEnc, salsaTextOperands_eq_ok.mpr ⟨hkey, textOperand_of_holds hdin (Nat.zero_le w)⟩, afterChecks_ok]
  rfl

/-- What a decryption makes of a ciphertext behind its nonce: the nonce selects the keystream of the rest
(42_salsa20.md R136, 43_chacha.md R151). -/
theorem xorKeystream_behind_nonce {nw w : Nat} (block : BitVec nw → Nat → BitVec 512) (nonce : BitVec nw)
    (text : BitVec w) :
    (⟨nw + w - nw, xorKeystream (block ((nonce ++ text).extractLsb' (nw + w - nw) nw))
      ((nonce ++ text).extractLsb' 0 (nw + w - nw))⟩ : Value) = ⟨w, xorKeystream (block nonce) text⟩ := by
  have hwidth (n : Nat) (hn : n = w) : (⟨n, xorKeystream (block ((nonce ++ text).extractLsb' n nw))
      ((nonce ++ text).extractLsb' 0 n)⟩ : Value) = ⟨w, xorKeystream (block nonce) text⟩ := by
    subst hn
    rw [BitVec.extractLsb'_append_eq_left, BitVec.extractLsb'_append_eq_right]
  exact hwidth _ (Nat.add_sub_cancel_left nw w)

theorem exec_salsaDec {s : State} {rounds w : Nat} {key : SalsaKey} {iv : BitVec 64} {text : BitVec w}
    (hkey : salsaKeyed rounds s = .ok key) (hdin : DinHolds s (iv ++ text)) (hw : 0 < w) :
    exec (.salsaDec rounds) s = .next (done (salsaXcrypt key iv rounds text) s) := by
  have hresult : salsaDecrypted key ⟨64 + w, iv ++ text⟩ rounds = ⟨w, salsaXcrypt key iv rounds text⟩ :=
    xorKeystream_behind_nonce (fun iv => salsaBlock key iv rounds) iv text
  show execSalsaDec rounds s = _
  rw [execSalsaDec, salsaTextOperands_eq_ok.mpr ⟨hkey, textOperand_of_holds hdin (by omega)⟩, afterChecks_ok, hresult,
    succeed_eq_done]

theorem exec_chachaXcrypt {s : State} {rounds w : Nat} {v : Variant} {o : ChachaOperands v} {text : BitVec w}
    (ho : chachaExpOperands rounds v s = .ok o) (hdin : DinHolds s text) :
    exec (.chachaXcrypt rounds v) s =
      .next (done (chachaXcrypt s.par.djbCtrOrder v o.key o.nonce o.ctr rounds text) s) := by
  show execChachaXcrypt rounds v s = _
  rw [execChachaXcrypt, chachaXcryptOperands_eq_ok.mpr ⟨ho, textOperand_of_holds hdin (Nat.zero_le w)⟩,
    afterChecks_ok, succeed_eq_done]

theorem exec_chachaEnc {s : State} {rounds w : Nat} {v : Variant} {key : BitVec 256} {ctr : BitVec (ctrWidth v)}
    {text : BitVec w} (hkey : chachaKeyed rounds s = .ok key) (hctr : operand s .ctr (ctrWidth v) = .ok ctr)
    (hdin : DinHolds s text) :
    exec (.chachaEnc rounds v) s = .next (done (Config.rng (nonceWidth v) s.draws ++
      chachaXcrypt s.par.djbCtrOrder v key (Config.rng (nonceWidth v) s.draws) ctr rounds text)
      (tookDraw s)) := by
  show execChachaEnc rounds v s = _
  rw [execChachaEnc, chachaTextOperands_eq_ok (o := ⟨key, ctr, w, text⟩) |>.mpr
    ⟨hkey, hctr, textOperand_of_holds hdin (Nat.zero_le w)⟩, afterChecks_ok]
  rfl

theorem exec_chachaDec {s : State} {rounds w : Nat} {v : Variant} {key : BitVec 256} {ctr : BitVec (ctrWidth v)}
    {nonce : BitVec (nonceWidth v)} {text : BitVec w} (hkey : chachaKeyed rounds s = .ok key)
    (hctr : operand s .ctr (ctrWidth v) = .ok ctr) (hdin : DinHolds s (nonce ++ text)) (hw : 0 < w) :
    exec (.chachaDec rounds v) s =
      .next (done (chachaXcrypt s.par.djbCtrOrder v key nonce ctr rounds text) s) := by
  have hresult : chachaDecrypted s.par.djbCtrOrder v ⟨key, ctr, nonceWidth v + w, nonce ++ text⟩ rounds =
      ⟨w, chachaXcrypt s.par.djbCtrOrder v key nonce ctr rounds text⟩ :=
    xorKeystream_behind_nonce (fun n => chachaBlock s.par.djbCtrOrder v key n ctr rounds) nonce text
  show execChachaDec rounds v s = _
  rw [execChachaDec, chachaTextOperands_eq_ok (o := ⟨key, ctr, nonceWidth v + w, nonce ++ text⟩) |>.mpr
    ⟨hkey, hctr, textOperand_of_holds hdin (by omega)⟩, afterChecks_ok, hresult, succeed_eq_done]

/-! ### A command that succeeded -/

/-- The `STATUS` of a success has `OK` set (60_exceptions.md R178). -/
theorem ok_of_status_eq {s t : State} (h : t.status = okStatus s) : t.status.getLsbD 0 = true := by
  rw [h]
  exact successStatus_ok s.status

/-- A command that leaves `OK` set has passed its checks (60_exceptions.md R176, R178). -/
theorem checks_ok_of_status {α : Type} {c : Except CmdError α} {k : α → State} {s t : State}
    (h : afterChecks c k s = .next t) (hok : t.status.getLsbD 0 = true) : ∃ a, c = .ok a := by
  obtain ⟨e, -, rfl⟩ | ⟨a, ha, -⟩ := afterChecks_eq_next.mp h
  · rw [fail_status, failureStatus_ok] at hok
    exact nomatch hok
  · exact ⟨a, ha⟩

/-- A result in `DOUT` is its number (10_state.md R27). -/
theorem toNat_dout_done {p : Config.Params} {w : Nat} (h : w ≤ p.doutmax) (v : BitVec w) (s : State) :
    (done v s).dout.toNat = v.toNat :=
  BitVec.toNat_setWidth_of_le (h.trans (Nat.add_le_add_right (dmax_le_65536 p) 128))

theorem toNat_doutW_done {p : Config.Params} {w : Nat} (h : w ≤ p.doutmax) (v : BitVec w) (s : State) :
    (done v s).doutW.toNat = w :=
  toNat_ofNat_width h

/-- `t` with its result copied to `DIN`, as a host does it. -/
def fedBack (t : State) : State := { t with din := t.dout.setWidth 65536, dinW := t.doutW }

theorem dinHolds_fedBack {w : Nat} {v : BitVec w} {s : State} (h : w ≤ s.par.dmax) :
    DinHolds (fedBack (done v s)) v := by
  have hroom : w ≤ s.par.doutmax := h.trans (Nat.le_add_right _ _)
  refine ⟨toNat_doutW_done hroom v s, ?_, h⟩
  show ((v.setWidth 65664).setWidth 65536).toNat = _
  rw [BitVec.setWidth_setWidth_of_le _ (by decide), BitVec.toNat_setWidth_of_le (h.trans (dmax_le_65536 s.par))]

/-! ### Stream commands under one key -/

/-- The two states agree on what selects a keystream: the parameters, the key, the nonce and the counter. -/
structure SameKeying (s s' : State) : Prop where
  par : s'.par = s.par
  key : SameOperand .key s s'
  nonce : SameOperand .nonce s s'
  ctr : SameOperand .ctr s s'

theorem SameKeying.refl (s : State) : SameKeying s s := ⟨rfl, ⟨rfl, rfl⟩, ⟨rfl, rfl⟩, ⟨rfl, rfl⟩⟩

/-- A success keeps the keying, and so does copying its result to `DIN`. -/
theorem SameKeying.fedBack_done {s s' : State} (h : SameKeying s s') {w : Nat} (v : BitVec w) :
    SameKeying s (fedBack (done v s')) :=
  ⟨h.par, h.key, h.nonce, h.ctr⟩

theorem sameKeying_tookDraw (s : State) : SameKeying s (tookDraw s) := ⟨rfl, ⟨rfl, rfl⟩, ⟨rfl, rfl⟩, ⟨rfl, rfl⟩⟩

section keying
variable {s s' : State}

theorem SameKeying.salsaKeyed_eq (h : SameKeying s s') (rounds : Nat) : salsaKeyed rounds s' = salsaKeyed rounds s :=
  (salsaKeyed_agrees h.par h.key rounds).eq

theorem SameKeying.chachaKeyed_eq (h : SameKeying s s') (rounds : Nat) :
    chachaKeyed rounds s' = chachaKeyed rounds s :=
  (chachaKeyed_agrees h.par h.key rounds).eq

theorem SameKeying.operand_nonce_eq (h : SameKeying s s') (w : Nat) : operand s' .nonce w = operand s .nonce w :=
  (operand_agrees h.par h.nonce w).eq

theorem SameKeying.operand_ctr_eq (h : SameKeying s s') (w : Nat) : operand s' .ctr w = operand s .ctr w :=
  (operand_agrees h.par h.ctr w).eq

theorem SameKeying.chachaExpOperands_eq (h : SameKeying s s') (rounds : Nat) (v : Variant) :
    chachaExpOperands rounds v s' = chachaExpOperands rounds v s :=
  (chachaExpOperands_agrees h.par h.key h.nonce h.ctr rounds v).eq

end keying

/-- Keyed as in `s`, the command `i` XORs the keystream `block` to every text. -/
def Streams (i : Instr) (s : State) (block : Nat → BitVec 512) : Prop :=
  ∀ s', SameKeying s s' → ∀ (w : Nat) (text : BitVec w), DinHolds s' text →
    exec i s' = .next (done (xorKeystream block text) s')

/-- Keyed as in `s`, the command `e` encrypts every text with the keystream that its draw of `nw` bits selects, and
puts the draw before it. -/
def Encrypts (e : Instr) (s : State) {nw : Nat} (block : BitVec nw → Nat → BitVec 512) : Prop :=
  ∀ s', SameKeying s s' → ∀ (w : Nat) (text : BitVec w), DinHolds s' text →
    exec e s' = .next (done (Config.rng nw s'.draws ++ xorKeystream (block (Config.rng nw s'.draws)) text)
      (tookDraw s'))

/-- Keyed as in `s`, the command `d` decrypts every text behind a nonce of `nw` bits with the keystream that the nonce
selects. -/
def Decrypts (d : Instr) (s : State) {nw : Nat} (block : BitVec nw → Nat → BitVec 512) : Prop :=
  ∀ s', SameKeying s s' → ∀ (nonce : BitVec nw) (w : Nat) (text : BitVec w), DinHolds s' (nonce ++ text) → 0 < w →
    exec d s' = .next (done (xorKeystream (block nonce) text) s')

section success
variable {s t : State} {rounds : Nat} {v : Variant}

theorem salsaXcrypt_streams (h : exec (.salsaXcrypt rounds) s = .next t) (hok : t.status.getLsbD 0 = true) :
    ∃ block, Streams (.salsaXcrypt rounds) s block := by
  obtain ⟨⟨key, iv, text⟩, hchecks⟩ := checks_ok_of_status h hok
  obtain ⟨hkey, hiv, -⟩ := salsaXcryptOperands_eq_ok.mp hchecks
  exact ⟨salsaBlock key iv rounds, fun s' hs' _ _ hdin =>
    exec_salsaXcrypt ((hs'.salsaKeyed_eq rounds).trans hkey) ((hs'.operand_nonce_eq 64).trans hiv) hdin⟩

theorem chachaXcrypt_streams (h : exec (.chachaXcrypt rounds v) s = .next t) (hok : t.status.getLsbD 0 = true) :
    ∃ block, Streams (.chachaXcrypt rounds v) s block := by
  obtain ⟨⟨o, text⟩, hchecks⟩ := checks_ok_of_status h hok
  obtain ⟨ho, -⟩ := chachaXcryptOperands_eq_ok.mp hchecks
  refine ⟨chachaBlock s.par.djbCtrOrder v o.key o.nonce o.ctr rounds, fun s' hs' _ _ hdin => ?_⟩
  rw [← hs'.par]
  exact exec_chachaXcrypt ((hs'.chachaExpOperands_eq rounds v).trans ho) hdin

theorem salsaEnc_encrypts (h : exec (.salsaEnc rounds) s = .next t) (hok : t.status.getLsbD 0 = true) :
    ∃ block : BitVec 64 → Nat → BitVec 512,
      Encrypts (.salsaEnc rounds) s block ∧ Decrypts (.salsaDec rounds) s block := by
  obtain ⟨⟨key, text⟩, hchecks⟩ := checks_ok_of_status h hok
  obtain ⟨hkey, -⟩ := salsaTextOperands_eq_ok.mp hchecks
  exact ⟨fun iv => salsaBlock key iv rounds,
    fun s' hs' _ _ hdin => exec_salsaEnc ((hs'.salsaKeyed_eq rounds).trans hkey) hdin,
    fun s' hs' _ _ _ hdin hw => exec_salsaDec ((hs'.salsaKeyed_eq rounds).trans hkey) hdin hw⟩

theorem chachaEnc_encrypts (h : exec (.chachaEnc rounds v) s = .next t) (hok : t.status.getLsbD 0 = true) :
    ∃ block : BitVec (nonceWidth v) → Nat → BitVec 512,
      Encrypts (.chachaEnc rounds v) s block ∧ Decrypts (.chachaDec rounds v) s block := by
  obtain ⟨o, hchecks⟩ := checks_ok_of_status h hok
  obtain ⟨hkey, hctr, -⟩ := chachaTextOperands_eq_ok.mp hchecks
  refine ⟨fun n => chachaBlock s.par.djbCtrOrder v o.key n o.ctr rounds, fun s' hs' _ _ hdin => ?_,
    fun s' hs' _ _ _ hdin hw => ?_⟩ <;> rw [← hs'.par]
  · exact exec_chachaEnc ((hs'.chachaKeyed_eq rounds).trans hkey) ((hs'.operand_ctr_eq _).trans hctr) hdin
  · exact exec_chachaDec ((hs'.chachaKeyed_eq rounds).trans hkey) ((hs'.operand_ctr_eq _).trans hctr) hdin hw

end success

/-- What is encrypted comes back, whatever was drawn: the draw stands before the ciphertext, so the decryption selects
the same keystream (42_salsa20.md R137, 43_chacha.md R152). -/
theorem decrypt_encrypted {e d : Instr} {s t : State} {nw w : Nat} {block : BitVec nw → Nat → BitVec 512}
    {text : BitVec w} (henc : Encrypts e s block) (hdec : Decrypts d s block) (hnw : nw ≤ 128)
    (hdin : DinHolds s text) (hw : 0 < w) (ht : exec e s = .next t) (hroom : t.doutW.toNat ≤ s.par.dmax) :
    ∃ r, exec d (fedBack t) = .next r ∧ r.dout.toNat = text.toNat ∧ r.doutW.toNat = w := by
  obtain rfl := Host.Outcome.next.inj (ht.symm.trans (henc s (.refl s) w text hdin))
  obtain ⟨-, -, hcap⟩ := hdin
  have hwidth : nw + w ≤ s.par.doutmax := (Nat.add_le_add_left hcap nw).trans (add_dmax_le_doutmax s.par hnw)
  have hfits : nw + w ≤ s.par.dmax := by rwa [toNat_doutW_done hwidth] at hroom
  have hout : w ≤ s.par.doutmax := (Nat.le_add_left w nw).trans hwidth
  refine ⟨_, hdec _ ((sameKeying_tookDraw s).fedBack_done _) _ w _ (dinHolds_fedBack hfits) hw, ?_⟩
  rw [xorKeystream_xorKeystream]
  exact ⟨toNat_dout_done hout _ _, toNat_doutW_done hout _ _⟩

/-! ### The statements -/

/-- Settles O31: the four chunks of `DIN` are the four words. -/
theorem salsaQuarterroundResult : Obligations.SalsaQuarterroundResult := by
  intro s y0 y1 y2 y3 hdin
  show execSalsaQr s = _
  rw [execSalsaQr, operand_din_of_holds hdin, afterChecks_ok, quarterResult_append, salsaQuarterround_eq_QR,
    succeed_eq_done]

/-- Settles O32: packing and splitting a state undo each other, so each round is the one of the packed words. -/
theorem salsaRoundResults : Obligations.SalsaRoundResults := by
  intro s x hdin
  have hrow := rowRound_joinWords (splitWords x)
  have hcolumn := columnRound_joinWords (splitWords x)
  have hdouble := doubleRound_joinWords (splitWords x)
  rw [joinWords_splitWords] at hrow hcolumn hdouble
  exact ⟨⟨_, hrow, afterChecks_din hdin fun x => joinWords (rowround (splitWords x))⟩,
    ⟨_, hcolumn, afterChecks_din hdin fun x => joinWords (columnround (splitWords x))⟩,
    ⟨_, hdouble, afterChecks_din hdin fun x => joinWords (doubleround (splitWords x))⟩⟩

/-- Settles O33: the checks pass, and the model's hash is the statement's. -/
theorem salsaHashResult : Obligations.SalsaHashResult := by
  intro s rounds x hrounds hdin
  refine ⟨salsaHash x rounds, salsaHash_spec x rounds, ?_⟩
  show execSalsaHash rounds s = _
  rw [execSalsaHash, hashOperands_eq_ok.mpr ⟨checkStreamRounds_eq_ok.mpr hrounds, operand_din_of_holds hdin⟩,
    afterChecks_ok, succeed_eq_done]

/-- Settles O34: the hash of the matrix of key and nonce. -/
theorem salsaExpansionResult : Obligations.SalsaExpansionResult := by
  intro s rounds key nonce hrounds hkey hnonce
  refine ⟨salsaExpansion key nonce rounds, salsaExpansion_spec key nonce rounds, ?_⟩
  show execSalsaExp rounds s = _
  rw [execSalsaExp, salsaExpOperands_eq_ok.mpr ⟨salsaKeyed_of_holds hrounds hkey, operand_nonce_of_holds hnonce⟩,
    afterChecks_ok, succeed_eq_done]

/-- Settles O35: the checks hand over key, IV and text, and each bit of the text meets its bit of the keystream. -/
theorem salsaXcryptResult : Obligations.SalsaXcryptResult := by
  intro s rounds key iv w text hrounds hkey hiv hdin
  exact ⟨_, salsaXcrypt_spec key iv rounds text,
    exec_salsaXcrypt (salsaKeyed_of_holds hrounds hkey) (operand_nonce_of_holds hiv) hdin⟩

/-- Settles O36: the same under the drawn IV, which stands before the result. -/
theorem salsaEncryptResult : Obligations.SalsaEncryptResult := by
  intro s rounds key w text hrounds hkey hdin
  exact ⟨_, _, rfl, salsaXcrypt_spec key _ rounds text, exec_salsaEnc (salsaKeyed_of_holds hrounds hkey) hdin⟩

/-- Settles O37: the same under the IV that stands before the ciphertext. -/
theorem salsaDecryptResult : Obligations.SalsaDecryptResult := by
  intro s rounds key iv w text hrounds hkey hdin hw
  exact ⟨_, salsaXcrypt_spec key iv rounds text, exec_salsaDec (salsaKeyed_of_holds hrounds hkey) hdin hw⟩

/-- Settles O45: the second run meets the same keystream, and XOR with it undoes itself. -/
theorem xcryptTwiceReturnsTheText : Obligations.XcryptTwiceReturnsTheText := by
  intro s t i w text hi hdin ht hst
  have hok := ok_of_status_eq hst
  obtain ⟨block, hblock⟩ : ∃ block, Streams i s block := by
    obtain ⟨r, rfl⟩ | ⟨r, v, rfl⟩ := hi
    · exact salsaXcrypt_streams ht hok
    · exact chachaXcrypt_streams ht hok
  obtain rfl := Host.Outcome.next.inj (ht.symm.trans (hblock s (.refl s) w text hdin))
  obtain ⟨-, -, hcap⟩ := hdin
  have hroom : w ≤ s.par.doutmax := hcap.trans (Nat.le_add_right _ _)
  refine ⟨_, hblock _ ((SameKeying.refl s).fedBack_done _) w _ (dinHolds_fedBack hcap), ?_⟩
  rw [xorKeystream_xorKeystream]
  exact ⟨toNat_dout_done hroom _ _, toNat_doutW_done hroom _ _⟩

/-- Settles O46: each cipher's decryption selects the keystream of the draw that its encryption put before the text. -/
theorem decryptReturnsTheEncryptedText : Obligations.DecryptReturnsTheEncryptedText := by
  intro s t e d w text hed hdin hw ht hst hroom
  have hok := ok_of_status_eq hst
  obtain ⟨r, rfl, rfl⟩ | ⟨r, v, rfl, rfl⟩ := hed
  · obtain ⟨block, henc, hdec⟩ := salsaEnc_encrypts ht hok
    exact decrypt_encrypted henc hdec (by decide) hdin hw ht hroom
  · obtain ⟨block, henc, hdec⟩ := chachaEnc_encrypts ht hok
    exact decrypt_encrypted henc hdec (by cases v <;> decide) hdin hw ht hroom

/-- Settles O47: both runs show the keystream, and the shorter one is the top of the longer. -/
theorem theSalsaKeystreamOfAShorterTextIsAPrefix : Obligations.TheSalsaKeystreamOfAShorterTextIsAPrefix := by
  intro s t t' r v w hvw hcap hzero ht hok ht'
  have hdin {n : Nat} (hn : n ≤ s.par.dmax) : DinHolds { s with dinW := BitVec.ofNat 32 n } 0#n :=
    ⟨toNat_ofNat_width (p := s.par) (hn.trans (Nat.le_add_right _ _)),
      show s.din.toNat = _ by rw [hzero, BitVec.toNat_zero, BitVec.toNat_zero], hn⟩
  have hkeying : SameKeying { s with dinW := BitVec.ofNat 32 w } { s with dinW := BitVec.ofNat 32 v } :=
    ⟨rfl, ⟨rfl, rfl⟩, ⟨rfl, rfl⟩, ⟨rfl, rfl⟩⟩
  have hroom : w ≤ s.par.doutmax := hcap.trans (Nat.le_add_right _ _)
  obtain ⟨block, hblock⟩ := salsaXcrypt_streams ht hok
  obtain rfl := Host.Outcome.next.inj (ht.symm.trans (hblock _ (.refl _) w _ (hdin hcap)))
  obtain rfl := Host.Outcome.next.inj (ht'.symm.trans (hblock _ hkeying v _ (hdin (hvw.trans hcap))))
  refine ⟨successStatus_ok _, ?_⟩
  rw [toNat_dout_done (hvw.trans hroom), toNat_dout_done hroom, ← topBits_xorKeystream_zero block hvw,
    toNat_topBits _ hvw]

end Sys2Proof.Machine

/-! PROOFS of the family of ChaCha (43_chacha.md). The ideas they share: the functions of the model are the statements',
word by word, as for Salsa20; both variants differ in the last row of the initial state only; and the quarterround is
four times one line, which loses nothing. -/

namespace Sys2Proof.Machine

open Sys2Proof Sys2Proof.Claims

/-! ### The quarterround as a bijection -/

theorem rotl_injective {w s : Nat} (h : s ≤ w) : Function.Injective fun x : BitVec w => rotl x s h :=
  Function.LeftInverse.injective (g := fun x => rotr x s h) fun x => rotr_rotl x h

/-- One line of 43_chacha.md R140, `a += b; d ^= a; d <<<= s`, with the pairs swapped after it so that the next line
finds its words at the same places. -/
def chachaLine (s : Nat) (h : s ≤ 32) (x : Word32 × Word32 × Word32 × Word32) :
    Word32 × Word32 × Word32 × Word32 :=
  let (a, b, c, d) := x
  (c, rotl (d ^^^ addMod a b) s h, addMod a b, b)

theorem chachaQuarterround_eq_lines (x : Word32 × Word32 × Word32 × Word32) :
    chachaQuarterround x.1 x.2.1 x.2.2.1 x.2.2.2 =
      chachaLine 7 (by decide) (chachaLine 8 (by decide) (chachaLine 12 (by decide) (chachaLine 16 (by decide) x))) :=
  rfl

/-- A line keeps `b` and `c`; with `b` its sum gives `a` back, and with the sum its rotated word gives `d` back. -/
theorem chachaLine_injective {s : Nat} (h : s ≤ 32) : Function.Injective (chachaLine s h) := by
  rintro ⟨a, b, c, d⟩ ⟨a', b', c', d'⟩ heq
  simp only [chachaLine, addMod_eq_add, Prod.mk.injEq] at heq
  obtain ⟨rfl, hrot, hsum, rfl⟩ := heq
  obtain rfl := BitVec.add_left_inj b |>.mp hsum
  obtain rfl := BitVec.xor_left_inj _ |>.mp (rotl_injective h hrot)
  rfl

/-- Settles O48: four injective lines on a finite set. -/
theorem theChachaQuarterroundIsABijection : Obligations.TheChachaQuarterroundIsABijection := by
  refine Finite.injective_iff_bijective.mp ?_
  simp only [chachaQuarterround_eq_lines]
  exact (chachaLine_injective _).comp ((chachaLine_injective _).comp
    ((chachaLine_injective _).comp (chachaLine_injective _)))

/-! ### The quarterround on a state -/

theorem chachaQuarterround_eq_CQR (a b c d : Word32) : chachaQuarterround a b c d = CQR a b c d := by
  simp only [chachaQuarterround, addMod_eq_add, rotl_eq_rotateLeft _ (by decide : 16 < 32),
    rotl_eq_rotateLeft _ (by decide : 12 < 32), rotl_eq_rotateLeft _ (by decide : 8 < 32),
    rotl_eq_rotateLeft _ (by decide : 7 < 32)]
  rfl

theorem nodup_four_iff {α : Type} {i j k l : α} :
    [i, j, k, l].Nodup ↔ i ≠ j ∧ i ≠ k ∧ i ≠ l ∧ j ≠ k ∧ j ≠ l ∧ k ≠ l := by
  simp [and_assoc]

/-- At pairwise distinct indices the four write-backs do not meet, in whatever order they come (43_chacha.md R141). -/
theorem stateQR_joinWords (x : Block16) {i j k l : Fin 16} (h : [i, j, k, l].Nodup) :
    StateQR (joinWords x) i j k l (joinWords (quarterroundState x i j k l)) := by
  obtain ⟨hij, hik, hil, hjk, hjl, hkl⟩ := nodup_four_iff.mp (h.map Fin.val_injective)
  refine ⟨?_, fun m hm hi hj hk hl => ?_⟩
  · simp only [word_joinWords _ _ (Fin.isLt _), ← chachaQuarterround_eq_CQR, quarterroundState, Vector.getElem_set,
      Fin.getElem_fin, if_true, if_neg hij.symm, if_neg hik.symm, if_neg hil.symm, if_neg hjk.symm, if_neg hjl.symm,
      if_neg hkl.symm]
  · simp only [word_joinWords _ m hm, quarterroundState, Vector.getElem_set, if_neg hi.symm, if_neg hj.symm,
      if_neg hk.symm, if_neg hl.symm]

/-- The model's double round works through the index sets of 43_chacha.md R142 in their order. -/
theorem stateQRs_chachaDoubleround (x : Block16) :
    StateQRs roundSets (joinWords x) (joinWords (chachaDoubleround x)) := by
  simp only [roundSets, StateQRs]
  exact ⟨_, stateQR_joinWords x (i := 0) (j := 4) (k := 8) (l := 12) (by decide),
    _, stateQR_joinWords _ (i := 1) (j := 5) (k := 9) (l := 13) (by decide),
    _, stateQR_joinWords _ (i := 2) (j := 6) (k := 10) (l := 14) (by decide),
    _, stateQR_joinWords _ (i := 3) (j := 7) (k := 11) (l := 15) (by decide),
    _, stateQR_joinWords _ (i := 0) (j := 5) (k := 10) (l := 15) (by decide),
    _, stateQR_joinWords _ (i := 1) (j := 6) (k := 11) (l := 12) (by decide),
    _, stateQR_joinWords _ (i := 2) (j := 7) (k := 8) (l := 13) (by decide),
    _, stateQR_joinWords _ (i := 3) (j := 4) (k := 9) (l := 14) (by decide), rfl⟩

/-! ### The hash -/

/-- The states between the iterations are the iterates of the input, which is not reversed (43_chacha.md R142). -/
theorem chachaHash_spec (x : Block16) (rounds : Nat) : ChachaHash (joinWords x) rounds (chachaHash x rounds) := by
  refine ⟨fun m => joinWords (repeatN chachaDoubleround m x), rfl, fun m _ => ?_, fun i hi => ?_⟩
  · simp only [repeatN_eq_iterate, Function.iterate_succ_apply']
    exact stateQRs_chachaDoubleround _
  · simp only [chachaHash, word_feedForward _ _ i hi, word_joinWords _ i hi]

/-! ### The initial state -/

section initialState
variable (order : Config.CtrOrder) (key : BitVec 256)

/-- The first three rows are the same in both variants (43_chacha.md R143). -/
theorem chachaRows_chachaState (v : Variant) (nonce : BitVec (nonceWidth v)) (ctr : BitVec (ctrWidth v)) :
    ChachaRows key (joinWords (chachaState order v key nonce ctr)) := by
  refine ⟨word_joinWords _ 0 (by decide), word_joinWords _ 1 (by decide), word_joinWords _ 2 (by decide),
    word_joinWords _ 3 (by decide), fun m hm => ?_⟩
  rw [word_joinWords _ _ (by omega), ← le32_eq_swap32]
  interval_cases m <;> rfl

/-- The last row of the IETF variant is one counter word and three nonce words (43_chacha.md R143). -/
theorem ietfBlock_chachaExpansion (nonce : BitVec 96) (ctr : BitVec 32) (rounds : Nat) :
    IetfBlock key nonce ctr rounds (chachaExpansion order .ietf key nonce ctr rounds) := by
  refine ⟨_, chachaRows_chachaState order key .ietf nonce ctr, ?_, fun m hm => ?_, chachaHash_spec _ rounds⟩
  · exact word_joinWords _ 12 (by decide)
  · rw [word_joinWords _ _ (by omega), ← le32_eq_swap32]
    interval_cases m <;> rfl

/-- The last row of the DJB variant is two counter words, in the order of `DJB_CTR_ORDER`, and two nonce words
(43_chacha.md R143). -/
theorem djbBlock_chachaExpansion (nonce ctr : BitVec 64) (rounds : Nat) :
    DjbBlock order key nonce ctr rounds (chachaExpansion order .djb key nonce ctr rounds) := by
  refine ⟨_, chachaRows_chachaState order key .djb nonce ctr, ?_, ?_, fun m hm => ?_, chachaHash_spec _ rounds⟩
  · rintro rfl
    exact ⟨word_joinWords _ 12 (by decide), word_joinWords _ 13 (by decide)⟩
  · rintro rfl
    exact ⟨word_joinWords _ 12 (by decide), word_joinWords _ 13 (by decide)⟩
  · rw [word_joinWords _ _ (by omega), ← le32_eq_swap32]
    cases order <;> interval_cases m <;> rfl

/-! ### The keystream -/

/-- The counter of block `c` wraps at 32 bits (43_chacha.md R144). -/
theorem ietfXcrypt_chachaXcrypt (nonce : BitVec 96) (ctr : BitVec 32) (rounds : Nat) {w : Nat} (text : BitVec w) :
    IetfXcrypt key nonce ctr rounds text (chachaXcrypt order .ietf key nonce ctr rounds text) := by
  refine ⟨chachaBlock order .ietf key nonce ctr rounds, fun c _ => ?_, keystreamXor_xorKeystream _ text⟩
  rw [← addMod_eq_add]
  exact ietfBlock_chachaExpansion order key nonce _ rounds

/-- The counter of block `c` wraps at 64 bits (43_chacha.md R144). -/
theorem djbXcrypt_chachaXcrypt (nonce ctr : BitVec 64) (rounds : Nat) {w : Nat} (text : BitVec w) :
    DjbXcrypt order key nonce ctr rounds text (chachaXcrypt order .djb key nonce ctr rounds text) := by
  refine ⟨chachaBlock order .djb key nonce ctr rounds, fun c _ => ?_, keystreamXor_xorKeystream _ text⟩
  rw [← addMod_eq_add]
  exact djbBlock_chachaExpansion order key nonce _ rounds

end initialState

/-! ### Operands -/

theorem operand_ctr_of_holds {s : State} {w : Nat} {x : BitVec w} (h : CtrHolds s x) : operand s .ctr w = .ok x := by
  obtain ⟨htag, hnum⟩ := h
  exact operand_of_tag_num htag hnum

theorem checkIndices_of_nodup {i j k l : Fin 16} (h : [i, j, k, l].Nodup) : checkIndices i j k l = .ok () :=
  checkIndices_eq_ok.mpr (nodup_four_iff.mp h)

theorem chachaKeyed_of_holds {s : State} {rounds : Nat} {key : BitVec 256} (hrounds : StreamRounds rounds)
    (hkey : KeyHolds s key) : chachaKeyed rounds s = .ok key :=
  chachaKeyed_eq_ok.mpr ⟨checkStreamRounds_eq_ok.mpr hrounds, operand_key_of_keyHolds hkey⟩

theorem chachaExpOperands_of_holds {s : State} {rounds : Nat} {v : Variant} {key : BitVec 256}
    {nonce : BitVec (nonceWidth v)} {ctr : BitVec (ctrWidth v)} (hrounds : StreamRounds rounds)
    (hkey : KeyHolds s key) (hnonce : NonceHolds s nonce) (hctr : CtrHolds s ctr) :
    chachaExpOperands rounds v s = .ok ⟨key, nonce, ctr⟩ :=
  chachaExpOperands_eq_ok.mpr
    ⟨chachaKeyed_of_holds hrounds hkey, operand_nonce_of_holds hnonce, operand_ctr_of_holds hctr⟩

theorem exec_chachaExp {s : State} {rounds : Nat} {v : Variant} {o : ChachaOperands v}
    (ho : chachaExpOperands rounds v s = .ok o) :
    exec (.chachaExp rounds v) s =
      .next (done (chachaExpansion s.par.djbCtrOrder v o.key o.nonce o.ctr rounds) s) := by
  show execChachaExp rounds v s = _
  rw [execChachaExp, ho, afterChecks_ok, succeed_eq_done]

/-! ### The statements -/

/-- Settles O38: the four chunks of `DIN` are the four words. -/
theorem chachaQuarterroundResult : Obligations.ChachaQuarterroundResult := by
  intro s a b c d hdin
  show execChachaQr s = _
  rw [execChachaQr, operand_din_of_holds hdin, afterChecks_ok, quarterResult_append, chachaQuarterround_eq_CQR,
    succeed_eq_done]

/-- Settles O39: the index check passes, and `DIN` is the packed state. -/
theorem chachaIndexedQuarterroundResult : Obligations.ChachaIndexedQuarterroundResult := by
  intro s i j k l x hdistinct hdin
  have hstate := stateQR_joinWords (splitWords x) hdistinct
  rw [joinWords_splitWords] at hstate
  refine ⟨_, hstate, ?_⟩
  show execChachaQrs i j k l s = _
  rw [execChachaQrs, qrsOperands_eq_ok.mpr ⟨checkIndices_of_nodup hdistinct, operand_din_of_holds hdin⟩,
    afterChecks_ok, roundResult, succeed_eq_done]

/-- Settles O40: the checks pass, and the model's hash is the statement's. -/
theorem chachaHashResult : Obligations.ChachaHashResult := by
  intro s rounds x hrounds hdin
  have hhash := chachaHash_spec (splitWords x) rounds
  rw [joinWords_splitWords] at hhash
  refine ⟨_, hhash, ?_⟩
  show execChachaHash rounds s = _
  rw [execChachaHash, hashOperands_eq_ok.mpr ⟨checkStreamRounds_eq_ok.mpr hrounds, operand_din_of_holds hdin⟩,
    afterChecks_ok, succeed_eq_done]

/-- Settles O41: the hash of the initial state of the variant. -/
theorem chachaExpansionResult : Obligations.ChachaExpansionResult := by
  intro s rounds key hrounds hkey
  refine ⟨fun nonce ctr hnonce hctr => ?_, fun nonce ctr hnonce hctr => ?_⟩
  · have hexec := exec_chachaExp (chachaExpOperands_of_holds (v := .ietf) hrounds hkey hnonce hctr)
    exact ⟨_, ietfBlock_chachaExpansion s.par.djbCtrOrder key nonce ctr rounds, hexec⟩
  · have hexec := exec_chachaExp (chachaExpOperands_of_holds (v := .djb) hrounds hkey hnonce hctr)
    exact ⟨_, djbBlock_chachaExpansion s.par.djbCtrOrder key nonce ctr rounds, hexec⟩

/-- Settles O42: the checks hand over key, nonce, counter and text, and each bit of the text meets its bit of the
keystream. -/
theorem chachaXcryptResult : Obligations.ChachaXcryptResult := by
  intro s rounds key w text hrounds hkey hdin
  refine ⟨fun nonce ctr hnonce hctr => ?_, fun nonce ctr hnonce hctr => ?_⟩
  · have hexec := exec_chachaXcrypt (chachaExpOperands_of_holds (v := .ietf) hrounds hkey hnonce hctr) hdin
    exact ⟨_, ietfXcrypt_chachaXcrypt s.par.djbCtrOrder key nonce ctr rounds text, hexec⟩
  · have hexec := exec_chachaXcrypt (chachaExpOperands_of_holds (v := .djb) hrounds hkey hnonce hctr) hdin
    exact ⟨_, djbXcrypt_chachaXcrypt s.par.djbCtrOrder key nonce ctr rounds text, hexec⟩

/-- Settles O43: the same under the drawn nonce, which stands before the result. -/
theorem chachaEncryptResult : Obligations.ChachaEncryptResult := by
  intro s rounds key w text hrounds hkey hdin
  have hkeyed := chachaKeyed_of_holds hrounds hkey
  exact ⟨fun ctr hctr => ⟨_, _, rfl, ietfXcrypt_chachaXcrypt s.par.djbCtrOrder key _ ctr rounds text,
      exec_chachaEnc (v := .ietf) hkeyed (operand_ctr_of_holds hctr) hdin⟩,
    fun ctr hctr => ⟨_, _, rfl, djbXcrypt_chachaXcrypt s.par.djbCtrOrder key _ ctr rounds text,
      exec_chachaEnc (v := .djb) hkeyed (operand_ctr_of_holds hctr) hdin⟩⟩

/-- Settles O44: the same under the nonce that stands before the ciphertext. -/
theorem chachaDecryptResult : Obligations.ChachaDecryptResult := by
  intro s rounds key w text hrounds hkey hw
  have hkeyed := chachaKeyed_of_holds hrounds hkey
  exact ⟨fun nonce ctr hdin hctr => ⟨_, ietfXcrypt_chachaXcrypt s.par.djbCtrOrder key nonce ctr rounds text,
      exec_chachaDec (v := .ietf) hkeyed (operand_ctr_of_holds hctr) hdin hw⟩,
    fun nonce ctr hdin hctr => ⟨_, djbXcrypt_chachaXcrypt s.par.djbCtrOrder key nonce ctr rounds text,
      exec_chachaDec (v := .djb) hkeyed (operand_ctr_of_holds hctr) hdin hw⟩⟩

end Sys2Proof.Machine

/-! PROOFS of the family of ECB (44_ecb.md). The ideas they share: a chunk of the padded text is a slice of the text, and
a value is fixed by its chunks; so the driver is described by its chunks alone, and what the block function does to a
chunk, decrypting what it encrypted among it, ECB does to the text. -/

namespace Sys2Proof.Machine

open Sys2Proof Sys2Proof.Claims

/-! ### Chunks -/

theorem ceilDiv_eq_blocks64 (w : Nat) : ceilDiv w 64 = blocks64 w := rfl

theorem le_mul_blocks64 (w : Nat) : w ≤ 64 * blocks64 w := by
  rw [blocks64]
  omega

/-- A padded text needs no padding. -/
theorem blocks64_mul (b : Nat) : blocks64 (64 * b) = b := by
  rw [blocks64]
  omega

/-- A chunk is a slice of the text: what a slice takes beyond the text's width is the padding. -/
theorem paddedChunk_eq_extractLsb' {w : Nat} (text : BitVec w) (m : Nat) :
    paddedChunk text m = text.extractLsb' (64 * (blocks64 w - 1 - m)) 64 := by
  rw [paddedChunk, ← Nat.shiftRight_eq_div_pow]
  rfl

/-- A chunk of a text of whole blocks is one of its blocks. -/
theorem paddedChunk_of_blocks {b : Nat} (text : BitVec (64 * b)) (m : Nat) :
    paddedChunk text m = text.extractLsb' (64 * (b - 1 - m)) 64 := by
  rw [paddedChunk_eq_extractLsb', blocks64_mul]

/-- The chunks of the padded text are those the statement cuts off the text (44_ecb.md R161, R162). -/
theorem chunk_setWidth_eq_paddedChunk {w : Nat} (text : BitVec w) (m : Nat) :
    chunk 64 (blocks64 w) (text.setWidth (64 * blocks64 w)) m = paddedChunk text m := by
  apply BitVec.eq_of_toNat_eq
  rw [chunk, paddedChunk_eq_extractLsb', BitVec.extractLsb'_toNat, BitVec.extractLsb'_toNat,
    BitVec.toNat_setWidth_of_le (le_mul_blocks64 w)]

theorem ecbChunk_eq_paddedChunk {w : Nat} (text : BitVec w) (m : Nat) : ecbChunk 64 text m = paddedChunk text m :=
  chunk_setWidth_eq_paddedChunk text m

/-- A value whose chunks are those of the text is the text, padded. -/
theorem toNat_eq_of_chunks {w b : Nat} {text : BitVec w} (hb : b = blocks64 w) {out : BitVec (64 * b)}
    (hchunks : ∀ m, m < b → out.extractLsb' (64 * (b - 1 - m)) 64 = paddedChunk text m) :
    out.toNat = text.toNat := by
  subst hb
  have hout : out = text.setWidth (64 * blocks64 w) := calc
    out = concatN (chunk 64 (blocks64 w) out) (blocks64 w) := (concatN_chunk out).symm
    _ = concatN (chunk 64 (blocks64 w) (text.setWidth (64 * blocks64 w))) (blocks64 w) :=
      concatN_congr fun m hm => (hchunks m hm).trans (chunk_setWidth_eq_paddedChunk text m).symm
    _ = text.setWidth (64 * blocks64 w) := concatN_chunk _
  rw [hout, BitVec.toNat_setWidth_of_le (le_mul_blocks64 w)]

/-! ### The driver -/

/-- Block `m` of the result is the block function's on chunk `m` (44_ecb.md R162). -/
theorem extractLsb'_ecb (fn : Block64 → Block64) {w m : Nat} (text : BitVec w) (hm : m < blocks64 w) :
    (ecb 64 fn text).extractLsb' (64 * (blocks64 w - 1 - m)) 64 = fn (paddedChunk text m) := by
  rw [← ecbChunk_eq_paddedChunk]
  exact chunk_concatN (fun m => fn (ecbChunk 64 text m)) (blocks64 w) m hm

/-- No history clears the trace window (10_state.md R32). -/
theorem writeTrace_nil (s : State) : writeTrace [] s = untraced s := by
  simp only [writeTrace, untraced, traceEntries, List.map_nil, List.length_nil, List.nil_append, Nat.sub_zero]

/-- The history the driver keeps is the last chunk's, if there is one (44_ecb.md R164). -/
theorem lastHistory_eq {fn : Block64 → BlockResult} {block : Block64 → Block64}
    {hist : Block64 → List (Word32 × Word32)} (hfn : ∀ p, fn p = ⟨block p, hist p⟩) {w : Nat} (text : BitVec w) :
    lastHistory fn text = if blocks64 w = 0 then [] else hist (paddedChunk text (blocks64 w - 1)) := by
  rw [lastHistory, hfn, ecbChunk_eq_paddedChunk, ceilDiv_eq_blocks64]

/-- The driver leaves what the statement says, for a block function whose results are `block` with the history `h`. -/
theorem ecbResult_leaves {fn : Block64 → BlockResult} {block : Block64 → Block64}
    {h : Block64 → Nat → Word32 × Word32} {n : Nat} (hn : n ≤ 255)
    (hfn : ∀ p, fn p = ⟨block p, (List.range (n + 1)).map (h p)⟩) {w : Nat} (text : BitVec w) (s : State) :
    EcbLeaves block h n text s (ecbResult fn ⟨w, text⟩ s) := by
  have hblock : (fun p => (fn p).block) = block := funext fun p => by rw [hfn]
  refine ⟨ecb 64 block text, fun m hm => extractLsb'_ecb block text hm, ?_⟩
  rw [ecbResult, hblock, lastHistory_eq hfn]
  split
  next => exact writeTrace_nil _
  next => exact writeTrace_map_range hn _ _

/-- What an ECB command leaves in `DOUT` and `DOUT_W`. -/
theorem output_of_ecbLeaves {fn : Block64 → Block64} {h : Block64 → Nat → Word32 × Word32} {n w : Nat} {text : BitVec w}
    {s s' : State} (hleaves : EcbLeaves fn h n text s s') :
    ∃ out : BitVec (64 * blocks64 w),
      (∀ m, m < blocks64 w → out.extractLsb' (64 * (blocks64 w - 1 - m)) 64 = fn (paddedChunk text m)) ∧
      s'.dout = (done out s).dout ∧ s'.doutW = (done out s).doutW := by
  obtain ⟨out, hchunks, rfl⟩ := hleaves
  refine ⟨out, hchunks, ?_⟩
  split <;> exact ⟨rfl, rfl⟩

/-- A text of any width passes the checks of an ECB command. -/
theorem fealOperands_ecb_of_holds {s : State} {n : Nat} {k : BitVec 128} {w : Nat} {text : BitVec w}
    (hrounds : FealRounds s n) (hkey : KeyHolds s k) (hdin : DinHolds s text) :
    fealOperands n true s = .ok (k, ⟨w, text⟩) :=
  fealOperands_ecb_eq_ok.mpr ⟨fealKeyOperand_of_holds hrounds hkey, textOperand_of_holds hdin (Nat.zero_le w)⟩

/-! ### One block -/

/-- A block is its only chunk. -/
theorem paddedChunk_block (p : Block64) : paddedChunk p 0 = p :=
  (paddedChunk_of_blocks (b := 1) p 0).trans BitVec.extractLsb'_eq_self

/-- Driving a block function over one block is applying it. -/
theorem ecb_block (fn : Block64 → Block64) (p : Block64) :
    (⟨64 * ceilDiv 64 64, ecb 64 fn p⟩ : Value) = ⟨64, fn p⟩ := by
  have hslice := extractLsb'_ecb fn p (m := 0) (by decide)
  rw [paddedChunk_block] at hslice
  exact congrArg (Value.mk 64) (BitVec.extractLsb'_eq_self.symm.trans hslice)

theorem lastHistory_block (fn : Block64 → BlockResult) (p : Block64) : lastHistory fn p = (fn p).history := by
  rw [lastHistory, ecbChunk_eq_paddedChunk, ceilDiv_eq_blocks64]
  exact congrArg (fun q => (fn q).history) (paddedChunk_block p)

/-- On one block the driver is the block command (44_ecb.md R164). -/
theorem fealEffect_block (fn : Block64 → BlockResult) (p : Block64) (s : State) :
    fealEffect fn true ⟨64, p⟩ s = fealEffect fn false ⟨64, p⟩ s := by
  rw [fealEffect, fealEffect, ecbResult, lastHistory_block, ecb_block, blockResult, BitVec.setWidth_eq]

/-- At a width that fits, a text of any width and an operand of that width pass the same checks (10_state.md R28). -/
theorem textOperand_eq_map_operand {s : State} {w least : Nat} (htag : s.dinW.toNat = w) (hcap : w ≤ s.par.dmax)
    (hleast : least ≤ w) : textOperand s least = (operand s .din w).map fun t => ⟨w, t⟩ := by
  subst htag
  cases hop : operand s .din s.dinW.toNat with
  | error e =>
    obtain ⟨htag | hwide, rfl⟩ := operand_eq_error.mp hop
    · exact absurd rfl htag
    · exact textOperand_eq_error.mpr (.inr ⟨hcap, .inr hwide, rfl⟩)
  | ok t =>
    obtain ⟨-, hfits, rfl⟩ := operand_eq_ok.mp hop
    exact textOperand_eq_ok.mpr ⟨hcap, hleast, hfits, rfl⟩

theorem sixty_four_le_dmax (p : Config.Params) : 64 ≤ p.dmax := by
  rw [Config.Params.dmax]
  omega

/-- The flag `E` makes no difference to the checks at 64 bits, where every text fits (44_ecb.md R164). -/
theorem fealOperands_block {s : State} (htag : s.dinW.toNat = 64) (n : Nat) :
    fealOperands n true s = fealOperands n false s := by
  have htext := textOperand_eq_map_operand htag (sixty_four_le_dmax s.par) (Nat.zero_le 64)
  rw [fealOperands_ecb_eq_do, fealOperands_single_eq_do, htext]
  cases operand s .din 64 <;> rfl

/-- A block command with and without the flag `E`, for either block function `fn`. -/
theorem afterChecks_fealEffect_block {s : State} (htag : s.dinW.toNat = 64) (n : Nat)
    (fn : BitVec 128 → Block64 → BlockResult) :
    afterChecks (fealOperands n true s) (fun kt => fealEffect (fn kt.1) true kt.2 s) s =
      afterChecks (fealOperands n false s) (fun kt => fealEffect (fn kt.1) false kt.2 s) s := by
  rw [fealOperands_block htag]
  cases hops : fealOperands n false s with
  | error e => rfl
  | ok kt =>
    obtain ⟨-, p, -, hblock⟩ := fealOperands_single_eq_ok.mp hops
    rw [afterChecks_ok, afterChecks_ok, hblock, fealEffect_block]

/-! ### Decryption of a ciphertext -/

/-- What decrypts a result left by the driver, chunk by chunk, leaves the text, padded (44_ecb.md R163). -/
theorem toNat_eq_of_ecb_inverse {enc dec : Block64 → Block64} (hinverse : ∀ p, dec (enc p) = p) {w : Nat}
    {text : BitVec w} {out : BitVec (64 * blocks64 w)}
    (hout : ∀ m, m < blocks64 w → out.extractLsb' (64 * (blocks64 w - 1 - m)) 64 = enc (paddedChunk text m))
    {back : BitVec (64 * blocks64 (64 * blocks64 w))}
    (hback : ∀ m, m < blocks64 (64 * blocks64 w) →
      back.extractLsb' (64 * (blocks64 (64 * blocks64 w) - 1 - m)) 64 = dec (paddedChunk out m)) :
    back.toNat = text.toNat :=
  toNat_eq_of_chunks (blocks64_mul _) fun m hm => by
    rw [hback m hm, paddedChunk_of_blocks, hout m (by rwa [blocks64_mul] at hm), hinverse]

/-- Taking a result that fits out of `DOUT` gives it back. -/
theorem setWidth_dout_done {p : Config.Params} {w : Nat} (hw : w ≤ p.doutmax) (v : BitVec w) (s : State) :
    (done v s).dout.setWidth w = v := by
  apply BitVec.eq_of_toNat_eq
  rw [BitVec.toNat_setWidth, toNat_dout_done hw, Nat.mod_eq_of_lt v.isLt]

/-- The result of an ECB command fits in `DOUT` (00_scope.md R9). -/
theorem padded_le_doutmax {p : Config.Params} {w : Nat} (hw : w ≤ p.dmax) : 64 * blocks64 w ≤ p.doutmax :=
  (padded_le_dmax hw).trans (Nat.le_add_right _ _)

/-! ### The statements -/

/-- Settles O27: `FEAL.ENC` and `FEAL.DEC` drive the two block functions of the statement. -/
theorem fealEcbResults : Obligations.FealEcbResults := by
  intro s n k w text hrounds hkey hdin
  have hn := le_255_of_fealRounds hrounds
  have hops := fealOperands_ecb_of_holds hrounds hkey hdin
  refine ⟨⟨_, ?_, ecbResult_leaves hn (fun p => fealEncryptBlock_eq k p hrounds.1) text s⟩,
    ⟨_, ?_, ecbResult_leaves hn (fun c => fealDecryptBlock_eq k c hrounds.1) text s⟩⟩
  · show execFealEnc n true s = _
    rw [execFealEnc, hops, afterChecks_ok, fealEffect]
  · show execFealDec n true s = _
    rw [execFealDec, hops, afterChecks_ok, fealEffect]

/-- Settles O28: with `DIN_W = 64` the checks are the same, and the only chunk is the block. -/
theorem ecbOnOneBlockIsTheBlockCommand : Obligations.EcbOnOneBlockIsTheBlockCommand := by
  intro s n htag
  exact ⟨afterChecks_fealEffect_block htag n fun k => fealEncryptBlock (keySchedule k n) n,
    afterChecks_fealEffect_block htag n fun k => fealDecryptBlock (keySchedule k n) n⟩

/-- Settles O30: `FEAL.DEC` takes each block of the ciphertext back to the chunk of the text it came from. -/
theorem ecbRoundTripKeepsThePadding : Obligations.EcbRoundTripKeepsThePadding := by
  intro s s' t n k w text hrounds hrounds' hkey hkey' hdin henc hdin'
  obtain ⟨⟨r, hr, hencLeaves⟩, -⟩ := fealEcbResults s n k w text hrounds hkey hdin
  obtain rfl := Host.Outcome.next.inj (henc.symm.trans hr)
  obtain ⟨out, hout, hdout, -⟩ := output_of_ecbLeaves hencLeaves
  have ⟨_, _, hcap⟩ := hdin
  rw [hdout, setWidth_dout_done (padded_le_doutmax hcap)] at hdin'
  obtain ⟨-, ⟨r, hr, hdecLeaves⟩⟩ := fealEcbResults s' n k _ out hrounds' hkey' hdin'
  obtain ⟨back, hback, hbackDout, hbackW⟩ := output_of_ecbLeaves hdecLeaves
  have ⟨_, _, hcap'⟩ := hdin'
  have hfits := padded_le_doutmax hcap'
  refine ⟨r, hr, ?_, ?_⟩
  · rw [hbackDout, toNat_dout_done hfits]
    exact toNat_eq_of_ecb_inverse (decBlock_encBlock k n) hout hback
  · rw [hbackW, toNat_doutW_done hfits, blocks64_mul]

end Sys2Proof.Machine

/-! PROOFS of the family of the errors (60_exceptions.md). The ideas they share: the effect of a command is a failure or
a success, and that fixes `STATUS` and the draws; and checks that run one after the other fail as the first entry that
fails in the concatenation of their lists (`Reports.andThen`), so the list of a command is read off its checks. -/

namespace Sys2Proof.Machine

open Sys2Proof Sys2Proof.Claims

/-! ### The bits of `STATUS` -/

theorem failureStatus_err (e : CmdError) : (failureStatus e).getLsbD 1 = true := failureStatus_low e (by decide)

theorem successStatus_err (old : Word32) : (successStatus old).getLsbD 1 = false := by
  unfold successStatus
  split <;> decide

/-- The reserved bits of `STATUS` are 0 in every word it can hold (10_state.md R30). -/
theorem reserved_of_mem_statusWords :
    ∀ w ∈ statusWords, w.extractLsb' 3 5 = 0#5 ∧ w.extractLsb' 24 8 = 0#8 := by
  simp [statusWords]

theorem Effect.on_status_err (f : Effect) (s : State) : (f.on s).status.getLsbD 1 = !f.succeeds := by
  obtain ⟨e, rfl, hst⟩ | ⟨hsucc, hst⟩ := f.on_status s
  · rw [hst, failureStatus_err]; rfl
  · rw [hst, successStatus_err, hsucc]; rfl

/-- `ESTK` after an effect: set where it was set or the command failed (60_exceptions.md R176, R178). -/
theorem Effect.on_status_estk_eq (f : Effect) (s : State) :
    (f.on s).status.getLsbD 2 = (s.status.getLsbD 2 || !f.succeeds) := by
  obtain ⟨e, rfl, hst⟩ | ⟨hsucc, hst⟩ := f.on_status s
  · rw [hst, failureStatus_estk, Effect.succeeds, Bool.not_false, Bool.or_true]
  · rw [hst, successStatus_estk, hsucc, Bool.not_true, Bool.or_false]

/-! ### The draws -/

/-- A legal effect takes one draw where an encryption succeeds, and none otherwise (60_exceptions.md R183). -/
theorem Effect.on_draws {f : Effect} {i : Instr} {p : Config.Params} (hf : f.Legal i p) (s : State) :
    (f.on s).draws = s.draws + if drawsIv i && f.succeeds then 1 else 0 := by
  cases hf with
  | fails listed => rw [Effect.succeeds, Bool.and_false]; rfl
  | gives _ noDraw => rw [noDraw]; rfl
  | draws _ draw => rw [draw]; rfl
  | traces _ _ noDraw => rw [noDraw]; rfl
  | unstated _ _ noDraw => rw [noDraw]; rfl

/-- The most significant bits of the result in `DOUT` are the value `n`. -/
def TopOfDout (t : State) {nw : Nat} (n : BitVec nw) : Prop := t.dout.toNat / 2 ^ (t.doutW.toNat - nw) = n.toNat

theorem topOfDout_append {nw w : Nat} (n : BitVec nw) (x : BitVec w) (s : State) (hroom : nw + w ≤ s.par.doutmax) :
    TopOfDout (succeed ⟨nw + w, n ++ x⟩ s) n := by
  have htop : topBits nw (n ++ x) = n := by
    rw [topBits, Nat.add_sub_cancel_left, BitVec.extractLsb'_append_eq_left]
  rw [TopOfDout, succeed_eq_done, toNat_dout_done hroom, toNat_doutW_done hroom,
    ← toNat_topBits (n ++ x) (Nat.le_add_right nw w), htop]

/-- A drawn value of `nw` bits and the ciphertext behind it fit in `DOUT` (10_state.md R27). -/
theorem nonce_text_le_doutmax {s : State} {nw : Nat} {text : Value} (hnw : nw ≤ 128)
    (htext : textOperand s 0 = .ok text) : nw + text.width ≤ s.par.doutmax :=
  (Nat.add_le_add_left (textOperand_width_le htext) nw).trans (add_dmax_le_doutmax s.par hnw)

theorem salsaEnc_topOfDout {s t : State} {rounds : Nat} (h : exec (.salsaEnc rounds) s = .next t)
    (hok : t.status.getLsbD 0 = true) : TopOfDout t (Config.rng 64 s.draws) := by
  obtain ⟨⟨key, text⟩, hchecks⟩ := checks_ok_of_status h hok
  obtain ⟨-, htext⟩ := salsaTextOperands_eq_ok.mp hchecks
  replace h : execSalsaEnc rounds s = .next t := h
  rw [execSalsaEnc, hchecks, afterChecks_ok] at h
  obtain rfl := Host.Outcome.next.inj h
  exact topOfDout_append _ _ (tookDraw s) (nonce_text_le_doutmax (by decide) htext)

theorem chachaEnc_topOfDout {s t : State} {rounds : Nat} {v : Variant} (h : exec (.chachaEnc rounds v) s = .next t)
    (hok : t.status.getLsbD 0 = true) : TopOfDout t (Config.rng (nonceWidth v) s.draws) := by
  obtain ⟨o, hchecks⟩ := checks_ok_of_status h hok
  obtain ⟨-, -, htext⟩ := chachaTextOperands_eq_ok.mp hchecks
  replace h : execChachaEnc rounds v s = .next t := h
  rw [execChachaEnc, hchecks, afterChecks_ok] at h
  obtain rfl := Host.Outcome.next.inj h
  have hnw : nonceWidth v ≤ 128 := by cases v <;> decide
  exact topOfDout_append _ _ (tookDraw s) (nonce_text_le_doutmax hnw htext)

/-! ### A list of checks -/

/-- The word of the first entry that fails, if one fails. -/
def firstFailing (l : List (Bool × Word32)) : Option Word32 := (l.find? Prod.fst).map Prod.snd

theorem firstError_eq (s : State) (i : Instr) : firstError s i = firstFailing (checks s i) := rfl

theorem firstFailing_cons (b : Bool) (st : Word32) (l : List (Bool × Word32)) :
    firstFailing ((b, st) :: l) = if b then some st else firstFailing l := by
  cases b <;> rfl

theorem firstFailing_append (l m : List (Bool × Word32)) :
    firstFailing (l ++ m) = (firstFailing l).or (firstFailing m) := by
  rw [firstFailing, List.find?_append, Option.map_or]
  rfl

/-- The word that the error of a check leaves in `STATUS`, if it raises one (60_exceptions.md R176). -/
def errorWord {α : Type} : Except CmdError α → Option Word32
  | .error e => some (failureStatus e)
  | .ok _ => none

/-- The checks `c` fail exactly as the list `l` says: with the word of its first failing entry. -/
def Reports {α : Type} (l : List (Bool × Word32)) (c : Except CmdError α) : Prop := firstFailing l = errorWord c

theorem Reports.pure {α : Type} (a : α) : Reports [] (Pure.pure a) := rfl

/-- Checks one after the other: the second list counts only where the first has no failing entry. -/
theorem Reports.andThen {α β : Type} {l m : List (Bool × Word32)} {c : Except CmdError α}
    {k : α → Except CmdError β} (hc : Reports l c) (hk : ∀ a, Reports m (k a)) : Reports (l ++ m) (c >>= k) := by
  rw [Reports, firstFailing_append, hc]
  cases c with
  | error e => rfl
  | ok a => exact hk a

/-- One check with one word. -/
theorem Reports.single {α : Type} {b : Bool} {st : Word32} {c : Except CmdError α}
    (herror : ∀ e, c = .error e → b = true ∧ failureStatus e = st) (hok : ∀ a, c = .ok a → b = false) :
    Reports [(b, st)] c := by
  rw [Reports, firstFailing_cons]
  cases c with
  | error e =>
    obtain ⟨rfl, rfl⟩ := herror e rfl
    rfl
  | ok a =>
    obtain rfl := hok a rfl
    rfl

/-! ### The checks of the operands and parameters -/

/-- The entry of an operand register at fixed widths. -/
def badReg (s : State) (allowed : List Nat) : OpReg → Bool × Word32
  | .key => badKey s allowed
  | .nonce => badNonce s allowed
  | .ctr => badCtr s allowed
  | .aux => badAux s allowed
  | .din => badDin s allowed

theorem badReg_eq (s : State) (allowed : List Nat) (x : OpReg) : badReg s allowed x =
    (badOperand (x.num s) (x.tag s) (x.capacity s.par) allowed, failureStatus ⟨.width, x.info⟩) := by
  cases x <;> rfl

theorem badOperand_eq_true_iff {num tag cap : Nat} {allowed : List Nat} :
    badOperand num tag cap allowed = true ↔ tag ∉ allowed ∨ (tag < cap ∧ 2 ^ tag ≤ num) := by
  simp [badOperand]

theorem operand_reports (s : State) (x : OpReg) (w : Nat) : Reports [badReg s [w] x] (operand s x w) := by
  rw [badReg_eq]
  refine .single (fun e he => ?_) (fun v hv => ?_)
  · obtain ⟨hbad, rfl⟩ := operand_eq_error.mp he
    refine ⟨badOperand_eq_true_iff.mpr ?_, rfl⟩
    rw [List.mem_singleton]
    by_cases htag : x.tag s = w
    · exact .inr (by simpa [htag] using hbad)
    · exact .inl htag
  · obtain ⟨htag, hfits, -⟩ := operand_eq_ok.mp hv
    rw [← Bool.not_eq_true, badOperand_eq_true_iff, List.mem_singleton, htag]
    exact not_or.mpr ⟨not_not.mpr rfl, hfits⟩

theorem salsaKeyOperand_reports (s : State) : Reports [badKey s [128, 256]] (salsaKeyOperand s) := by
  refine .single (fun e he => ?_) (fun v hv => ?_)
  · obtain ⟨hbad, rfl⟩ := salsaKeyOperand_eq_error.mp he
    refine ⟨badOperand_eq_true_iff.mpr ?_, rfl⟩
    obtain ⟨h128, h256⟩ | ⟨htag, hover⟩ := hbad
    · exact .inl (by simp [h128, h256])
    · exact .inr (by rw [htag]; exact ⟨by decide, hover⟩)
  · rw [← Bool.not_eq_true, badOperand_eq_true_iff]
    obtain ⟨htag, hfits, -⟩ | ⟨htag, -⟩ := salsaKeyOperand_eq_ok.mp hv
    · rw [htag]
      exact not_or.mpr ⟨by decide, fun hover => absurd hfits (Nat.not_lt.mpr hover.2)⟩
    · rw [htag]
      exact not_or.mpr ⟨by decide, fun hover => absurd hover.1 (by decide)⟩

theorem textOperand_reports (s : State) (least : Nat) : Reports (badText s least) (textOperand s least) := by
  rw [Reports, badText, firstFailing_cons, firstFailing_cons, firstFailing_cons]
  cases htext : textOperand s least with
  | error e =>
    obtain ⟨hwide, rfl⟩ | ⟨hcap, hbad, rfl⟩ := textOperand_eq_error.mp htext
    · rw [if_pos (decide_eq_true hwide)]
      rfl
    · rw [if_neg (by simpa using hcap)]
      by_cases hshort : s.dinW.toNat < least
      · rw [if_pos (decide_eq_true hshort)]
        rfl
      · rw [if_neg (by simpa using hshort), if_pos (by simpa using hbad.resolve_left hshort)]
        rfl
  | ok v =>
    obtain ⟨hcap, hleast, hfits, -⟩ := textOperand_eq_ok.mp htext
    rw [if_neg (by simpa using hcap), if_neg (by simpa using hleast), if_neg (by simpa using hfits)]
    rfl

theorem checkFealRounds_reports (s : State) (n : Nat) : Reports (badFealRounds s n) (checkFealRounds s n) := by
  rw [Reports, badFealRounds, firstFailing_cons, firstFailing_cons]
  cases hrounds : checkFealRounds s n with
  | error e =>
    obtain ⟨hbad, rfl⟩ | ⟨heven, hleast, hmost, rfl⟩ := checkFealRounds_eq_error.mp hrounds
    · rw [if_pos (by simpa using hbad)]
      rfl
    · rw [if_neg (by simp; omega), if_pos (decide_eq_true hmost)]
      rfl
  | ok u =>
    obtain ⟨heven, hleast, hmost⟩ := checkFealRounds_eq_ok.mp hrounds
    rw [if_neg (by simp; omega), if_neg (by simpa using hmost)]
    rfl

theorem checkStreamRounds_reports (n : Nat) : Reports [badStreamRounds n] (checkStreamRounds n) := by
  refine .single (fun e he => ?_) (fun u hu => ?_)
  · obtain ⟨hbad, rfl⟩ := checkStreamRounds_eq_error.mp he
    exact ⟨by simpa [and_assoc] using hbad, rfl⟩
  · have hlegal := checkStreamRounds_eq_ok.mp hu
    simpa [or_iff_not_imp_left] using hlegal

theorem checkIndices_reports (i j k l : Fin 16) :
    Reports [(decide (i = j ∨ i = k ∨ i = l ∨ j = k ∨ j = l ∨ k = l), 0x00090206#32)] (checkIndices i j k l) := by
  refine .single (fun e he => ?_) (fun u hu => ?_)
  · obtain ⟨hequal, rfl⟩ := checkIndices_eq_error.mp he
    exact ⟨decide_eq_true hequal, rfl⟩
  · have hdistinct := checkIndices_eq_ok.mp hu
    simpa using hdistinct

/-! ### The checks of each command -/

section reports
variable (s : State)

theorem unitOperands_reports (wa wb : Nat) : Reports [badAux s [wb], badDin s [wa]] (unitOperands wa wb s) := by
  rw [unitOperands_eq_do]
  exact (operand_reports s .aux wb).andThen fun b => (operand_reports s .din wa).andThen fun a => .pure _

theorem fealKeyOperand_reports (n : Nat) : Reports (badFealRounds s n ++ [badKey s [128]]) (fealKeyOperand n s) := by
  rw [fealKeyOperand_eq_do]
  exact (checkFealRounds_reports s n).andThen fun _ => operand_reports s .key 128

theorem fealOperands_reports (n : Nat) (ecb : Bool) :
    Reports (badFealRounds s n ++ badKey s [128] :: (if ecb then badText s 0 else [badDin s [64]]))
      (fealOperands n ecb s) := by
  cases ecb with
  | false =>
    rw [fealOperands_single_eq_do]
    exact (fealKeyOperand_reports s n).andThen fun k => (operand_reports s .din 64).andThen fun t => .pure _
  | true =>
    rw [fealOperands_ecb_eq_do]
    exact (fealKeyOperand_reports s n).andThen fun k => (textOperand_reports s 0).andThen fun t => .pure _

theorem hashOperands_reports (n : Nat) : Reports [badStreamRounds n, badDin s [512]] (hashOperands n s) := by
  rw [hashOperands_eq_do]
  exact (checkStreamRounds_reports n).andThen fun _ => operand_reports s .din 512

theorem qrsOperands_reports (i j k l : Fin 16) :
    Reports [(decide (i = j ∨ i = k ∨ i = l ∨ j = k ∨ j = l ∨ k = l), 0x00090206#32), badDin s [512]]
      (qrsOperands i j k l s) := by
  rw [qrsOperands_eq_do]
  exact (checkIndices_reports i j k l).andThen fun _ => operand_reports s .din 512

theorem salsaKeyed_reports (n : Nat) : Reports [badStreamRounds n, badKey s [128, 256]] (salsaKeyed n s) := by
  rw [salsaKeyed_eq_do]
  exact (checkStreamRounds_reports n).andThen fun _ => salsaKeyOperand_reports s

theorem salsaExpOperands_reports (n : Nat) :
    Reports [badStreamRounds n, badKey s [128, 256], badNonce s [128]] (salsaExpOperands n s) := by
  rw [salsaExpOperands_eq_do]
  exact (salsaKeyed_reports s n).andThen fun k => (operand_reports s .nonce 128).andThen fun x => .pure _

theorem salsaTextOperands_reports (n least : Nat) :
    Reports (badStreamRounds n :: badKey s [128, 256] :: badText s least) (salsaTextOperands n least s) := by
  rw [salsaTextOperands_eq_do]
  exact (salsaKeyed_reports s n).andThen fun k => (textOperand_reports s least).andThen fun t => .pure _

theorem salsaXcryptOperands_reports (n : Nat) :
    Reports (badStreamRounds n :: badKey s [128, 256] :: badNonce s [64] :: badText s 0)
      (salsaXcryptOperands n s) := by
  rw [salsaXcryptOperands_eq_do]
  exact (salsaKeyed_reports s n).andThen fun k => (operand_reports s .nonce 64).andThen fun iv =>
    (textOperand_reports s 0).andThen fun t => .pure _

theorem chachaKeyed_reports (n : Nat) : Reports [badStreamRounds n, badKey s [256]] (chachaKeyed n s) := by
  rw [chachaKeyed_eq_do]
  exact (checkStreamRounds_reports n).andThen fun _ => operand_reports s .key 256

theorem nonceWidth_eq_nw (v : Variant) : nonceWidth v = nw v := by cases v <;> rfl

theorem ctrWidth_eq_cw (v : Variant) : ctrWidth v = cw v := by cases v <;> rfl

theorem chachaExpOperands_reports (n : Nat) (v : Variant) :
    Reports [badStreamRounds n, badKey s [256], badNonce s [nw v], badCtr s [cw v]] (chachaExpOperands n v s) := by
  rw [chachaExpOperands_eq_do, ← nonceWidth_eq_nw, ← ctrWidth_eq_cw]
  exact (chachaKeyed_reports s n).andThen fun k => (operand_reports s .nonce (nonceWidth v)).andThen fun x =>
    (operand_reports s .ctr (ctrWidth v)).andThen fun c => .pure _

theorem chachaXcryptOperands_reports (n : Nat) (v : Variant) :
    Reports (badStreamRounds n :: badKey s [256] :: badNonce s [nw v] :: badCtr s [cw v] :: badText s 0)
      (chachaXcryptOperands n v s) := by
  rw [chachaXcryptOperands_eq_do]
  exact (chachaExpOperands_reports s n v).andThen fun o => (textOperand_reports s 0).andThen fun t => .pure _

theorem chachaTextOperands_reports (n : Nat) (v : Variant) (least : Nat) :
    Reports (badStreamRounds n :: badKey s [256] :: badCtr s [cw v] :: badText s least)
      (chachaTextOperands n v least s) := by
  rw [chachaTextOperands_eq_do, ← ctrWidth_eq_cw]
  exact (chachaKeyed_reports s n).andThen fun k => (operand_reports s .ctr (ctrWidth v)).andThen fun c =>
    (textOperand_reports s least).andThen fun t => .pure _

end reports

/-! ### The first failing check decides -/

/-- What a command on `s` answers where its first failing check leaves the word, or where none fails: the failure with
that word and nothing else, or a success (60_exceptions.md R176 to R178). -/
inductive Decided (s : State) : Option Word32 → Result → Prop
  | fails (st : Word32) : Decided s (some st) (.next (failed st s))
  | succeeds {t : State} (status : t.status = okStatus s) : Decided s none (.next t)

theorem Decided.eq_failed {s : State} {st : Word32} {o : Result} (h : Decided s (some st) o) :
    o = .next (failed st s) := by
  cases h
  rfl

theorem Decided.success {s : State} {o : Result} (h : Decided s none o) :
    ∃ t, o = .next t ∧ t.status = okStatus s := by
  cases h with
  | succeeds status => exact ⟨_, rfl, status⟩

theorem afterChecks_decided {α : Type} {l : List (Bool × Word32)} {c : Except CmdError α} {k : α → State} {s : State}
    (hc : Reports l c) (hk : ∀ a, (k a).status = okStatus s) :
    Decided s (firstFailing l) (afterChecks c k s) := by
  rw [hc]
  cases c with
  | error e => exact .fails (failureStatus e)
  | ok a => exact .succeeds (hk a)

theorem scheduleResult_status (n : Nat) (s : State) (k : BitVec 128) :
    (scheduleResult n s k).status = okStatus s := by
  unfold scheduleResult
  split <;> rfl

theorem fealEffect_status (fn : Block64 → BlockResult) (ecb : Bool) (text : Value) (s : State) :
    (fealEffect fn ecb text s).status = okStatus s := by
  cases ecb <;> rfl

/-- Every command runs the checks of the statement, in their order (60_exceptions.md R177). -/
theorem exec_decided (i : Instr) (s : State) : Decided s (firstError s i) (exec i s) := by
  rw [firstError_eq]
  cases i with
  | fealS0 => exact afterChecks_decided (unitOperands_reports s 8 8) fun _ => rfl
  | fealS1 => exact afterChecks_decided (unitOperands_reports s 8 8) fun _ => rfl
  | fealF => exact afterChecks_decided (unitOperands_reports s 32 16) fun _ => rfl
  | fealFk => exact afterChecks_decided (unitOperands_reports s 32 32) fun _ => rfl
  | fealKs n => exact afterChecks_decided (fealKeyOperand_reports s n) (scheduleResult_status n s)
  | fealEnc n ecb => exact afterChecks_decided (fealOperands_reports s n ecb) fun _ => fealEffect_status _ _ _ _
  | fealDec n ecb => exact afterChecks_decided (fealOperands_reports s n ecb) fun _ => fealEffect_status _ _ _ _
  | salsaQr => exact afterChecks_decided (operand_reports s .din 128) fun _ => rfl
  | salsaRr => exact afterChecks_decided (operand_reports s .din 512) fun _ => rfl
  | salsaCr => exact afterChecks_decided (operand_reports s .din 512) fun _ => rfl
  | salsaDr => exact afterChecks_decided (operand_reports s .din 512) fun _ => rfl
  | salsaHash n => exact afterChecks_decided (hashOperands_reports s n) fun _ => rfl
  | salsaExp n => exact afterChecks_decided (salsaExpOperands_reports s n) fun _ => rfl
  | salsaXcrypt n => exact afterChecks_decided (salsaXcryptOperands_reports s n) fun _ => rfl
  | salsaEnc n => exact afterChecks_decided (salsaTextOperands_reports s n 0) fun _ => rfl
  | salsaDec n => exact afterChecks_decided (salsaTextOperands_reports s n 65) fun _ => rfl
  | chachaQr => exact afterChecks_decided (operand_reports s .din 128) fun _ => rfl
  | chachaQrs i j k l => exact afterChecks_decided (qrsOperands_reports s i j k l) fun _ => rfl
  | chachaHash n => exact afterChecks_decided (hashOperands_reports s n) fun _ => rfl
  | chachaExp n v => exact afterChecks_decided (chachaExpOperands_reports s n v) fun _ => rfl
  | chachaXcrypt n v => exact afterChecks_decided (chachaXcryptOperands_reports s n v) fun _ => rfl
  | chachaEnc n v => exact afterChecks_decided (chachaTextOperands_reports s n v 0) fun _ => rfl
  | chachaDec n v =>
    have hchecks := chachaTextOperands_reports s n v (nw v + 1)
    rw [← nonceWidth_eq_nw] at hchecks
    exact afterChecks_decided hchecks fun _ => rfl

/-! ### The word written to `CMD` -/

/-- The checks read neither the host's side of the bus nor `CMD`. -/
theorem firstError_with_access (s : State) (rest : List HostEvent) (w : Word32) (i : Instr) :
    firstError { s with bus := rest, cmd := w } i = firstError s i := by
  cases i <;> rfl

theorem wordError_of_not_known {s : State} {w : Word32} (h : knownOpcode w = false) :
    wordError s w = some 0x00010106#32 := if_pos h

theorem wordError_of_not_legal {s : State} {w : Word32} (hknown : knownOpcode w = true)
    (hillegal : legalWord w = false) : wordError s w = some 0x00030106#32 := by
  rw [wordError, if_neg (by simp [hknown]), if_pos hillegal]

theorem wordError_of_legal {s : State} {w : Word32} {i : Instr} (hlegal : legalWord w = true)
    (hdec : decode w = .ok i) : wordError s w = firstError s i := by
  have hknown : knownOpcode w = true := by
    by_contra hunknown
    exact nomatch hdec.symm.trans (decode_of_not_known (Bool.eq_false_of_not_eq_true hunknown))
  rw [wordError, if_neg (by simp [hknown]), if_neg (by simp [hlegal]), hdec]

/-- What is written to `CMD` is an illegal word, which its ground decides, or a command, which its checks decide
(60_exceptions.md R177 step 1). -/
theorem wordError_cases (s : State) (w : Word32) :
    (∃ r, decode w = .error r ∧ wordError s w = some (failureStatus (rejectError r))) ∨
      (∃ i, decode w = .ok i ∧ wordError s w = firstError s i) := by
  cases hknown : knownOpcode w with
  | false => exact .inl ⟨.opc, decode_of_not_known hknown, wordError_of_not_known hknown⟩
  | true =>
    cases hlegal : legalWord w with
    | false => exact .inl ⟨.mbz, decode_of_not_legal hknown hlegal, wordError_of_not_legal hknown hlegal⟩
    | true =>
      obtain ⟨i, hdec⟩ := decode_of_legal hlegal
      exact .inr ⟨i, hdec, wordError_of_legal hlegal hdec⟩

/-! ### The statements -/

/-- Settles O4: with no event `hostStep` answers the state it was given. -/
theorem anIdleStepHoldsTheState : Obligations.AnIdleStepHoldsTheState := by
  intro s hidle
  rw [step, hostStep, hidle]

/-- Settles O49: a command is one effect, and its success or failure fixes each bit. -/
theorem everyCommandSucceedsOrFails : Obligations.EveryCommandSucceedsOrFails := by
  intro i s
  obtain ⟨t, ht⟩ := exec_answers i s
  obtain ⟨f, hlegal, rfl⟩ := exec_effect ht
  refine ⟨_, ht, ?_, ?_, reserved_of_mem_statusWords _ (Effect.on_status_mem hlegal s)⟩
  · rw [f.on_status_ok, f.on_status_err, Bool.not_not]
  · rw [f.on_status_estk_eq, f.on_status_err]

/-- Settles O54: a legal effect counts the draws, and the result of an encryption begins with the drawn value. -/
theorem onlyASuccessfulEncryptionDraws : Obligations.OnlyASuccessfulEncryptionDraws := by
  intro i s t h
  refine ⟨?_, ?_, ?_, ?_⟩
  · intro hquiet
    obtain ⟨f, hlegal, rfl⟩ := exec_effect h
    rw [f.on_status_ok] at hquiet
    rw [Effect.on_draws hlegal, Bool.and_eq_false_iff.mpr hquiet]
    rfl
  · intro hdraw hok
    obtain ⟨f, hlegal, rfl⟩ := exec_effect h
    rw [f.on_status_ok] at hok
    rw [Effect.on_draws hlegal, hdraw, hok]
    rfl
  · rintro r (rfl | rfl) hok
    · exact salsaEnc_topOfDout h hok
    · exact chachaEnc_topOfDout h hok
  · rintro r rfl hok
    exact chachaEnc_topOfDout h hok

/-- Settles O50: an illegal word fails on its ground; a command is decided by its first failing check, and where none
fails it succeeds, with the frame and the draws of its effect. -/
theorem theChecksRunInTheFixedOrder : Obligations.TheChecksRunInTheFixedOrder := by
  intro s rest w issued
  rw [step_command issued]
  obtain ⟨r, hdec, hword⟩ | ⟨i, hdec, hword⟩ := wordError_cases s w
  · rw [hword, runCommand_of_error hdec]
    refine ⟨fun st hst => ?_, fun hnone => nomatch hnone⟩
    obtain rfl := Option.some.inj hst
    rfl
  · have hrun := exec_decided i { s with bus := rest, cmd := w }
    rw [firstError_with_access, ← hword] at hrun
    rw [runCommand_of_ok hdec]
    refine ⟨fun st hst => (hst ▸ hrun).eq_failed, fun hnone => ?_⟩
    obtain ⟨t, ht, hstatus⟩ := (hnone ▸ hrun).success
    obtain ⟨f, hlegal, rfl⟩ := exec_effect ht
    have hsucc : f.succeeds = true := (f.on_status_ok _).symm.trans (ok_of_status_eq hstatus)
    refine ⟨i, _, hdec, ht, hstatus, ?_, ?_⟩
    · rw [f.on_frame]
    · rw [Effect.on_draws hlegal, hsucc, Bool.and_true]

end Sys2Proof.Machine

/-! PROOFS of the family of reset (70_reset_and_hazards.md). The idea they share: a step is one of six things
(`stepTo_of_step`), and the reset input is one event of it (`driveReset_eq`). -/

namespace Sys2Proof.Machine

open Sys2Proof Sys2Proof.Claims

/-! ### The reset input -/

theorem driveReset_par (level : Bool) (s : State) : (driveReset level s).par = s.par := by
  obtain ⟨-, -, hrelease⟩ | hlevel := driveReset_eq level s
  · rw [hrelease, releaseReset, resetWith_par]
  · rw [hlevel]

/-- Driving the input to the level it has changes nothing (70_reset_and_hazards.md R190). -/
theorem driveReset_same_level {level : Bool} {s : State} (h : s.inReset = level) : driveReset level s = s := by
  obtain ⟨hheld, hlow, -⟩ | hlevel := driveReset_eq level s
  · rw [h, hlow] at hheld
    exact nomatch hheld
  · rw [hlevel, ← h]

/-- The step that takes a change of the reset input. -/
theorem step_resetInput {s : State} {level : Bool} {rest : List HostEvent} (h : s.bus = .resetInput level :: rest) :
    step s = .next (driveReset level { s with bus := rest }) := by
  rw [step_cons h, hostEvent]

/-- A change of the input other than a release of the asserted one keeps every register (notes/assumptions/4.md). -/
theorem sameRegisters_driveReset {level : Bool} {s : State} (h : level = false → s.inReset = false)
    (rest : List HostEvent) : SameRegisters s (driveReset level { s with bus := rest }) := by
  obtain ⟨hheld, hlow, -⟩ | hlevel := driveReset_eq level { s with bus := rest }
  · exact absurd (hheld.symm.trans (h hlow)) nofun
  · rw [hlevel]
    rfl

/-! ### The parameters -/

theorem Loc.write_par (loc : Loc) (s : State) (v : Word32) : (loc.write s v).par = s.par := by
  cases loc <;> rfl

/-! ### The statements -/

/-- Settles O3: the step takes the one event, which sets the level where it is an assertion and is held off where it is
an access. -/
theorem nothingIsAcceptedWhileResetIsAsserted : Obligations.NothingIsAcceptedWhileResetIsAsserted := by
  intro s rest
  refine ⟨fun hbus => ?_, fun a size hbus hheld => ?_, fun a size v hbus hheld => ?_⟩
  · rw [step_resetInput hbus, driveReset]
  · exact (step_cons hbus).trans (if_pos hheld)
  · exact (step_cons hbus).trans (if_pos hheld)

/-- Settles O10: of the six things a step can do, three need a write, and a change of the reset input keeps the
registers unless it releases the asserted input. -/
theorem onlyAWriteOrAResetChangesARegister : Obligations.OnlyAWriteOrAResetChangesARegister := by
  refine ⟨fun s t h noWrite noRelease => ?_, fun s rest hbus hlow => ?_⟩
  · cases stepTo_of_step h with
    | idle => rfl
    | read => rfl
    | reset bus => exact sameRegisters_driveReset (fun hlow => noRelease _ (hlow ▸ bus)) _
    | write bus => exact absurd bus (noWrite _ _ _ _)
    | reject bus => exact absurd bus (noWrite _ _ _ _)
    | command bus => exact absurd bus (noWrite _ _ _ _)
  · rw [step_resetInput hbus, driveReset_same_level (s := { s with bus := rest }) hlow]

/-- Settles O57: none of the six things a step can do changes the parameters. -/
theorem noStepChangesTheParameters : Obligations.NoStepChangesTheParameters := by
  intro s t h
  cases stepTo_of_step h with
  | idle => rfl
  | reset => exact driveReset_par _ _
  | read => rfl
  | write => exact Loc.write_par _ _ _
  | reject => exact fail_par _ _
  | command _ _ run =>
    obtain ⟨f, -, rfl⟩ := exec_effect run
    rw [f.on_frame]

end Sys2Proof.Machine
